-- ==== Sys2Proof/Word.lean ====
section
/-! DEFINITION. Sys2Proof/Word.lean: the two word types of the block, a host register and a data byte. -/

namespace Sys2Proof

/-- A host register or a command word: 32 bits, bit 0 least significant (R8, R21, R63). -/
abbrev Word := BitVec 32

/-- A byte of the transfer buffer, of the data register or of a host access to BUF (R28, R37). -/
abbrev Byte := BitVec 8

end Sys2Proof
end

