-- ==== Sys2Proof/Syntax.lean ====
section
/-! DEFINITION. Sys2Proof/Syntax.lean: the eleven commands of R64, one constructor per row of the opcode table. -/

namespace Sys2Proof

/-- The four values of POWER's PSTATE field (R66): 0 Off, 1 Low, 2 Full, 3 without a name. -/
inductive PowerState where
  | off
  | low
  | full
  | unnamed
deriving DecidableEq, Repr

/-- A command of I2CM (R63, R64). LEN, OPTION and VALUE are natural numbers (R8); `WellFormed` bounds them by the
width of their field. ADDR is exactly 7 bits (R51). -/
inductive Instr where
  /-- INIT, format N (R70). -/
  | init
  /-- UNINIT, format N (R94). -/
  | uninit
  /-- POWER, format P (R93). -/
  | power (pstate : PowerState)
  /-- WRITE, format T (R80). -/
  | write (addr : BitVec 7) (len : Nat) (pend : Bool) (bufv : Bool)
  /-- READ, format T (R86). -/
  | read (addr : BitVec 7) (len : Nat) (pend : Bool) (bufv : Bool)
  /-- CONTROL, format C (R101). -/
  | control (option : Nat) (value : Nat)
  /-- GET_STATUS, format N (R98). -/
  | getStatus
  /-- GET_VERSION, format N (R99). -/
  | getVersion
  /-- GET_CAPABILITIES, format N (R100). -/
  | getCapabilities
  /-- SLAVE_TX, format N, a stub (R95). -/
  | slaveTx
  /-- SLAVE_RX, format N, a stub (R96). -/
  | slaveRx
deriving DecidableEq, Repr

end Sys2Proof
end

