-- ==== Sys2Proof/WellFormed.lean ====
section
/-! DEFINITION. Sys2Proof/WellFormed.lean: which terms of `Instr` a command word can hold (R64). -/

namespace Sys2Proof

/-- Every operand fits its field of R64: LEN 16 bits, OPTION 8 bits, VALUE 16 bits. ADDR, PSTATE, PEND and BUFV fit
by their types. A term is well formed exactly when some command word decodes to it. -/
def Instr.wellFormed : Instr → Bool
  | .init => true
  | .uninit => true
  | .power _ => true
  | .write _ len _ _ => decide (len < 2 ^ 16)
  | .read _ len _ _ => decide (len < 2 ^ 16)
  | .control option value => decide (option < 2 ^ 8) && decide (value < 2 ^ 16)
  | .getStatus => true
  | .getVersion => true
  | .getCapabilities => true
  | .slaveTx => true
  | .slaveRx => true

end Sys2Proof
end

