-- ==== Sys2Proof/Decode.lean ====
section
/-! DEFINITION. Sys2Proof/Decode.lean: the decoder (total on all 2^32 words, R63) and the encoder, both from R64. -/

namespace Sys2Proof

/-- What a word written to CMD is: a command, or a reserved opcode named by its OP field (R63, R65). -/
inductive Decoded where
  | command (i : Instr)
  | reservedOpcode (op : BitVec 4)
deriving DecidableEq, Repr

/-- PSTATE = w[5:4]: 0 Off, 1 Low, 2 Full, 3 unnamed (R66). -/
def PowerState.ofBits (b : BitVec 2) : PowerState :=
  if b = 0 then .off else if b = 1 then .low else if b = 2 then .full else .unnamed

/-- The PSTATE field of a power state (R66). -/
def PowerState.toBits : PowerState → BitVec 2
  | .off => 0
  | .low => 1
  | .full => 2
  | .unnamed => 3

/-- OP = w[3:0] (R63). -/
def opField (w : Word) : BitVec 4 := w.extractLsb' 0 4

/-- PSTATE = w[5:4], format P (R64). -/
def pstateField (w : Word) : BitVec 2 := w.extractLsb' 4 2

/-- PEND = w[4], format T (R64). -/
def pendField (w : Word) : Bool := w.getLsbD 4

/-- ADDR = w[11:5], format T (R64). -/
def addrField (w : Word) : BitVec 7 := w.extractLsb' 5 7

/-- BUFV = w[12], format T (R64). -/
def bufvField (w : Word) : Bool := w.getLsbD 12

/-- LEN of format T and VALUE of format C: w[31:16] (R64). -/
def highField (w : Word) : BitVec 16 := w.extractLsb' 16 16

/-- OPTION = w[15:8], format C (R64). -/
def optionField (w : Word) : BitVec 8 := w.extractLsb' 8 8

/-- The decoder of R63 and R64. Reserved bits are not read (R65). -/
def decode (w : Word) : Decoded :=
  match (opField w).toNat with
  | 0x1 => .command .init
  | 0x2 => .command .uninit
  | 0x3 => .command (.power (PowerState.ofBits (pstateField w)))
  | 0x4 => .command (.write (addrField w) (highField w).toNat (pendField w) (bufvField w))
  | 0x5 => .command (.read (addrField w) (highField w).toNat (pendField w) (bufvField w))
  | 0x6 => .command (.control (optionField w).toNat (highField w).toNat)
  | 0x7 => .command .getStatus
  | 0x8 => .command .getVersion
  | 0x9 => .command .getCapabilities
  | 0xA => .command .slaveTx
  | 0xB => .command .slaveRx
  | _ => .reservedOpcode (opField w)

/-- The instruction of a table word of `nbits` bits, `none` for a reserved opcode. A command is ONE word, so its
bits are numbered as the table numbers them; those at or above `nbits` are 0. -/
def decodeTableWord (nbits w : Nat) : Option Instr :=
  match decode (BitVec.ofNat 32 (w % 2 ^ nbits)) with
  | .command i => some i
  | .reservedOpcode _ => none

/-- The OP value of a command (R64). -/
def Instr.opcode : Instr → BitVec 4
  | .init => 0x1
  | .uninit => 0x2
  | .power _ => 0x3
  | .write .. => 0x4
  | .read .. => 0x5
  | .control .. => 0x6
  | .getStatus => 0x7
  | .getVersion => 0x8
  | .getCapabilities => 0x9
  | .slaveTx => 0xA
  | .slaveRx => 0xB

/-- Format N: w[31:4] reserved, written as 0 (R64, R65). -/
def encodeN (op : BitVec 4) : Word := 0#28 ++ op

/-- Format P: PSTATE in w[5:4], the rest reserved (R64). -/
def encodeP (op : BitVec 4) (pstate : BitVec 2) : Word := 0#26 ++ (pstate ++ op)

/-- Format C: VALUE, OPTION, w[7:4] reserved (R64). -/
def encodeC (op : BitVec 4) (option : BitVec 8) (value : BitVec 16) : Word := value ++ (option ++ (0#4 ++ op))

/-- Format T: LEN, w[15:13] reserved, BUFV, ADDR, PEND (R64). -/
def encodeT (op : BitVec 4) (addr : BitVec 7) (len : BitVec 16) (pend bufv : Bool) : Word :=
  len ++ (0#3 ++ (BitVec.ofBool bufv ++ (addr ++ (BitVec.ofBool pend ++ op))))

/-- The command word of an instruction, reserved bits 0 as the assembler writes them (R64, R65, R69). -/
def encode (i : Instr) : Word :=
  match i with
  | .init => encodeN 0x1
  | .uninit => encodeN 0x2
  | .power ps => encodeP 0x3 ps.toBits
  | .write a len pend bufv => encodeT 0x4 a (BitVec.ofNat 16 len) pend bufv
  | .read a len pend bufv => encodeT 0x5 a (BitVec.ofNat 16 len) pend bufv
  | .control o v => encodeC 0x6 (BitVec.ofNat 8 o) (BitVec.ofNat 16 v)
  | .getStatus => encodeN 0x7
  | .getVersion => encodeN 0x8
  | .getCapabilities => encodeN 0x9
  | .slaveTx => encodeN 0xA
  | .slaveRx => encodeN 0xB

/-- The reserved bits of the command's format (R64, R65): ignored by the decoder, 0 in an encoded word. -/
def Instr.reservedMask : Instr → Word
  | .init => 0xFFFFFFF0
  | .uninit => 0xFFFFFFF0
  | .power _ => 0xFFFFFFC0
  | .write .. => 0x0000E000
  | .read .. => 0x0000E000
  | .control .. => 0x000000F0
  | .getStatus => 0xFFFFFFF0
  | .getVersion => 0xFFFFFFF0
  | .getCapabilities => 0xFFFFFFF0
  | .slaveTx => 0xFFFFFFF0
  | .slaveRx => 0xFFFFFFF0

end Sys2Proof
end

