-- ==== Sys2Proof/Config.lean ====
section
/-! DEFINITION. Sys2Proof/Config.lean: the parameters of R7 and the free values of the environment (R39).
What the spec leaves OPEN is an opaque constant: nothing in Lean can evaluate it. -/

namespace Sys2Proof

/-- `READ_PENDING_STOP`: whether a READ with PEND = 1 still asserts STOP (R7, R91, C1). -/
inductive ReadPendingStop where
  | suppress
  | assert
deriving DecidableEq, Repr, Inhabited

/-- `PIN_MAP`, the two pins INIT configures (R7, R71); the numbers are opaque. DESIGN CHOICE (log 2): the shape. -/
structure PinMap where
  clockPin : Nat
  dataPin : Nat
deriving DecidableEq, Repr, Inhabited

/-- `CLK_CFG`, the clock divisor and rise-time values INIT programs (R7, R71); the numbers are opaque.
DESIGN CHOICE (log 2): the shape. -/
structure ClkCfg where
  divisor : Nat
  riseTime : Nat
deriving DecidableEq, Repr, Inhabited

/-- The parameters the model takes as arguments (R7, R40). -/
structure Params where
  /-- `TIMEOUT_LIMIT`: polls a wait makes before it expires (R77). -/
  timeoutLimit : Nat
  /-- `BUF_SIZE`: bytes in BUF (R28). -/
  bufSize : Nat
  /-- `VERSION_WORD`: what GET_VERSION returns (R99). -/
  versionWord : Word
  clkCfg : ClkCfg
  pinMap : PinMap
  readPendingStop : ReadPendingStop
  /-- `INIT_ENABLES`: whether INIT leaves the peripheral enabled (R70). -/
  initEnables : Bool
deriving DecidableEq, Repr

/-- The constraints of R7: TIMEOUT_LIMIT is at least 1, BUF_SIZE is 1 to 65536. -/
def Params.wf (p : Params) : Bool :=
  decide (1 ≤ p.timeoutLimit) && decide (1 ≤ p.bufSize) && decide (p.bufSize ≤ 65536)

namespace Config

/-- TIMEOUT_LIMIT less one: any natural number (R7, D10). DESIGN CHOICE (log 2), safe. -/
opaque timeoutLimitLessOne : Nat

/-- BUF_SIZE less one: any number from 0 to 65535 (R7, D7). DESIGN CHOICE (log 2), safe. -/
opaque bufSizeLessOne : BitVec 16

/-- VERSION_WORD: any 32-bit value (R7, D19). -/
opaque versionWord : Word

/-- CLK_CFG (R7, D30). -/
opaque clkCfg : ClkCfg

/-- PIN_MAP (R7, D30). -/
opaque pinMap : PinMap

/-- The free value of the `n`-th poll answer the environment gives after its listed ones: any Boolean (R39).
DESIGN CHOICE (log 4), safe. -/
opaque freePoll : Nat → Bool

/-- The free value of the `n`-th received byte after the listed ones: any byte (R39). DESIGN CHOICE (log 4), safe. -/
opaque freeRx : Nat → Byte

/-- The parameters at reset: the OPEN ones opaque within R7's constraints, the other two at R7's defaults
(`Suppress`, D12; `true`, D14). -/
def params : Params where
  timeoutLimit := timeoutLimitLessOne + 1
  bufSize := bufSizeLessOne.toNat + 1
  versionWord := versionWord
  clkCfg := clkCfg
  pinMap := pinMap
  readPendingStop := .suppress
  initEnables := true

end Config

end Sys2Proof
end

