-- ==== Sys2Proof/Machine/State.lean ====
section
/-! DEFINITION. Sys2Proof/Machine/State.lean: every piece of state of 10_state.md as plain data, the faults and
refusals, and the state after reset (R42). -/

namespace Sys2Proof.Machine

/-- LINE, the repeated-START arbiter's record of the bus (R34). -/
inductive Line where
  | released
  | held
  | unknown
deriving DecidableEq, Repr

/-- PHASE, the transaction state (R33). -/
inductive Phase where
  | idle
  | startPending
  | addressPending
  | addressAcked
  | transferring
  | stopping
  | chained
  | timedOut
deriving DecidableEq, Repr

/-- DIR, the direction of the last transfer: 0 write, 1 read (R35). -/
inductive Dir where
  | write
  | read
deriving DecidableEq, Repr

/-- The five status flags the controller polls; inputs, not state (R27). -/
inductive StatusFlag where
  | sb
  | addr
  | txe
  | btf
  | rxne
deriving DecidableEq, Repr

/-- The four result codes (R102). -/
inductive ResultCode where
  | ok
  | parameterError
  | timeoutError
  | unsupportedError
deriving DecidableEq, Repr

/-- The one bit rate of the block (R3, R29). -/
inductive BusRate where
  | standard
deriving DecidableEq, Repr

/-- The configuration record of CFG (R29). -/
structure BusConfig where
  pins : PinMap
  clk : ClkCfg
  rate : BusRate
deriving DecidableEq, Repr

/-- The bus-side event alphabet (R37), in the order of its codes 1 to 15. -/
inductive Event where
  | start (l : Line)
  | stop
  | tx (b : Byte)
  | rx (b : Byte)
  | poll (f : StatusFlag) (v : Bool)
  | clrAddr
  | ackOn
  | ackOff
  | posOnAckOff
  | posOff
  | pinsCfg
  | periphReset
  | clkCfg
  | enable
  | disable
deriving DecidableEq, Repr

/-- One controller operation of the commands' pseudocode (R9, R13). A command is a list of these; what remains of the
list is the "step within the procedure" of the sequencer position (R23). -/
inductive CtrlOp where
  /-- `emit E` for an event whose content does not depend on the state. -/
  | emit (e : Event)
  /-- `emit START(LINE)` (R78). -/
  | start
  /-- `emit TX(MemRead(k, 1))`, `k` an index of BUF (R44, R80). -/
  | txBuf (k : Nat)
  /-- `MemWrite(k, 1, rx())`, `k` an index of BUF (R45). -/
  | rxBuf (k : Nat)
  /-- `wait(f)` (R77). -/
  | wait (f : StatusFlag)
  /-- Inside `wait(f)`: the loop of R77, TB loaded. -/
  | polling (f : StatusFlag)
  | setPhase (p : Phase)
  | setLine (l : Line)
  | setBusy (b : Bool)
  | setDir (d : Dir)
  | setAck (b : Bool)
  | setPos (b : Bool)
  | setInitialized (b : Bool)
  | setCfg (c : Option BusConfig)
  | setRdata (w : Word)
  /-- `finish(rc)` (R104). -/
  | finish (rc : ResultCode)
deriving DecidableEq, Repr

/-- The sequencer position while a command executes (R23): the current command word, the byte index IDX and the
operations that remain. -/
structure SeqPos where
  word : Word
  idx : Nat
  todo : List CtrlOp
deriving DecidableEq, Repr

/-- The environment oracle (R39): the answers it has listed for the coming polls and data reads, and how many free
answers it has given after the lists ran out. DESIGN CHOICE (log 4), safe: every sequence of answers is some `Env`. -/
structure Env where
  polls : List Bool
  rxs : List Byte
  pollsDrawn : Nat
  rxsDrawn : Nat
deriving DecidableEq, Repr

/-- The width of a host access (R47). -/
inductive AccessWidth where
  | w8
  | w16
  | w32
  | w64
deriving DecidableEq, Repr

/-- A host access reads, or writes a value whose low bits, as many as the access is wide, are stored. -/
inductive AccessKind where
  | read
  | write (v : Word)
deriving DecidableEq, Repr

/-- One access of the host to the block's 32-bit offset space (R15, R43). -/
structure HostAccess where
  offset : Word
  width : AccessWidth
  kind : AccessKind
deriving DecidableEq, Repr

/-- What a host read gets back: a register word or a byte of BUF (R15). -/
inductive HostDatum where
  | word (w : Word)
  | byte (b : Byte)
deriving DecidableEq, Repr

/-- BUF's contents: its defined elements as (index, byte) pairs, the indices strictly rising. An index without an
entry is *undefined* (R28, R62). -/
abbrev Memory := List Host.Cell

/-- Why the machine stops with a fault: ModelFault of R115. -/
inductive Fault where
  /-- Raised by WRITE when its range holds an undefined element and by a host read of one (R62, R115). Safe. -/
  | undefinedBufferByte
  /-- Raised by MemRead or MemWrite at an index that is not below BUF_SIZE, an element that does not exist
  (R44, R45). The checks of R74 keep every command from it. DEDUCED (log 11), safe. -/
  | bufferIndexOutside
deriving DecidableEq, Repr

/-- Why a step has no meaning: a stuck host (R48, R115), or an instruction not modelled. -/
inductive Refusal where
  /-- Raised by `exec` for an instruction that has no meaning yet. Safe. -/
  | notModelled (mnemonic : String)
  /-- Raised by `step`: an access below 0x100 that is not 32 bits wide (R47, R48). Safe. -/
  | registerAccessWidth
  /-- Raised by `step`: a 32-bit access below 0x100 at an offset that is no multiple of 4 (R47, R48). Safe. -/
  | registerAccessMisaligned
  /-- Raised by `step`: an access to the BUF window that is wider than a byte (R47, R48). Safe. -/
  | bufferAccessWidth
  /-- Raised by `step`: an access at or above 0x100 + BUF_SIZE (R46). Safe. -/
  | outsideBlock
deriving DecidableEq, Repr

/-- The state of I2CM (10_state.md), then the model's own fields. -/
structure State where
  /-- RESULT (R24). -/
  result : Word
  /-- RDATA (R25). -/
  rdata : Word
  /-- BUFBASE (R26). -/
  bufbase : Word
  /-- BUF (R28). -/
  buf : Memory
  /-- INITIALIZED (R29). -/
  initialized : Bool
  /-- CFG (R29). -/
  cfg : Option BusConfig
  /-- ACK (R30). -/
  ack : Bool
  /-- POS (R31). -/
  pos : Bool
  /-- ENABLED (R32). -/
  enabled : Bool
  /-- PHASE (R33). -/
  phase : Phase
  /-- LINE (R34). -/
  line : Line
  /-- BUSY (R35). -/
  busy : Bool
  /-- DIR (R35). -/
  dir : Dir
  /-- TB, the watchdog countdown (R38). -/
  tb : Nat
  /-- TRACE, oldest event first (R36). -/
  trace : List Event
  /-- The sequencer position; `none` is "no command" (R23). -/
  seq : Option SeqPos
  /-- The model's own: the parameters (R7, log 1). No step writes them. -/
  params : Params
  /-- The model's own: the environment's coming answers (R39, log 4). -/
  env : Env
  /-- The model's own: the host accesses still to come, in program order (R56, log 6). -/
  host : List HostAccess
  /-- The model's own: what the host's reads have returned, oldest first (R15, log 6). -/
  hostData : List HostDatum
deriving DecidableEq, Repr

/-- The state after reset (R42, R116). -/
def State.reset : State where
  result := 0
  rdata := 0
  bufbase := 0
  buf := []
  initialized := false
  cfg := none
  ack := false
  pos := false
  enabled := false
  phase := .idle
  line := .released
  busy := false
  dir := .write
  tb := 0
  trace := []
  seq := none
  params := Config.params
  env := { polls := [], rxs := [], pollsDrawn := 0, rxsDrawn := 0 }
  host := []
  hostData := []

end Sys2Proof.Machine
end

