-- ==== Sys2Proof/Machine/Flags.lean ====
section
/-! DEFINITION. Sys2Proof/Machine/Flags.lean: the codes of results, status flags and events, the status word, and the
state an event changes (R35, R37, R97, R102). The block has no condition flags. -/

namespace Sys2Proof.Machine

/-- The number of a result code (R102). -/
def ResultCode.code : ResultCode → BitVec 2
  | .ok => 0
  | .parameterError => 1
  | .timeoutError => 2
  | .unsupportedError => 3

/-- zext_32(rc), the word `finish` writes to RESULT (R104). -/
def ResultCode.toWord (rc : ResultCode) : Word := rc.code.setWidth 32

/-- The DIR bit: 0 write, 1 read (R35); also the direction bit of the address byte (R66). -/
def Dir.bit : Dir → BitVec 1
  | .write => 0
  | .read => 1

/-- STATUS = zext_32({DIR, BUSY}): bit 0 BUSY, bit 1 DIR (R97). -/
def statusWord (dir : Dir) (busy : Bool) : Word := (dir.bit ++ BitVec.ofBool busy).setWidth 32

/-- The flag codes of POLL (R37). -/
def StatusFlag.code : StatusFlag → Nat
  | .sb => 0
  | .addr => 1
  | .txe => 2
  | .btf => 3
  | .rxne => 4

/-- The event codes (R37). -/
def Event.code : Event → Nat
  | .start _ => 1
  | .stop => 2
  | .tx _ => 3
  | .rx _ => 4
  | .poll _ _ => 5
  | .clrAddr => 6
  | .ackOn => 7
  | .ackOff => 8
  | .posOnAckOff => 9
  | .posOff => 10
  | .pinsCfg => 11
  | .periphReset => 12
  | .clkCfg => 13
  | .enable => 14
  | .disable => 15

/-- PHASE after an event, column "state changed with it" of R37. -/
def Event.phaseAfter (e : Event) (p : Phase) : Phase :=
  match e with
  | .start _ => .startPending
  | _ => p

/-- ACK after an event (R37). -/
def Event.ackAfter (e : Event) (ack : Bool) : Bool :=
  match e with
  | .ackOn => true
  | .ackOff => false
  | .posOnAckOff => false
  | .periphReset => false
  | _ => ack

/-- POS after an event (R37). -/
def Event.posAfter (e : Event) (pos : Bool) : Bool :=
  match e with
  | .posOnAckOff => true
  | .posOff => false
  | .periphReset => false
  | _ => pos

/-- ENABLED after an event (R37). -/
def Event.enabledAfter (e : Event) (enabled : Bool) : Bool :=
  match e with
  | .enable => true
  | .disable => false
  | .periphReset => false
  | _ => enabled

end Sys2Proof.Machine
end

