-- ==== Sys2Proof/Machine/Operands.lean ====
section
/-! DEFINITION. Sys2Proof/Machine/Operands.lean: how operands are formed from the command word and the state (R66),
the parameter checks of the transfers (R73, R74), and the host's register offsets (R46). -/

namespace Sys2Proof.Machine

/-- The address byte {ADDR, d} of WRITE (d = 0) and READ (d = 1) (R66). -/
def addressByte (addr : BitVec 7) (d : Dir) : Byte := addr ++ d.bit

/-- BASE = BUFBASE[15:0] (R26, R66). -/
def State.base (s : State) : Nat := (s.bufbase.extractLsb' 0 16).toNat

/-- The parameter checks of WRITE and READ: they pass when the buffer is not null-equivalent, LEN is not 0 and
BASE to BASE+LEN-1 lies inside BUF; the sum is on natural numbers and does not wrap (R73, R74). -/
def transferChecksPass (len : Nat) (bufv : Bool) (s : State) : Bool :=
  bufv && decide (len ≠ 0) && decide (s.base + len ≤ s.params.bufSize)

/-- S of R86: does this READ assert STOP? (R91) -/
def readStops (p : Params) (pend : Bool) : Bool :=
  !pend || decide (p.readPendingStop = .assert)

/-- The configuration record INIT writes (R29, R70). -/
def busConfig (p : Params) : BusConfig := { pins := p.pinMap, clk := p.clkCfg, rate := .standard }

/-- CONTROL's test: OPTION 0x01 (BUS_SPEED) with VALUE 0x0001 (STANDARD) (R101). -/
def controlSupported (option value : Nat) : Bool := decide (option = 0x01) && decide (value = 0x0001)

/-- Byte `j` of a host register word: bits [8j+7 : 8j], little-endian by offset (R49). -/
def registerByte (w : Word) (j : Nat) : Byte := w.extractLsb' (8 * j) 8

/-- The first offset of the BUF window (R46). -/
def bufWindow : Nat := 0x100

/-- BASE as the host set it: BUFBASE[31:16] read as 0 and writes to them are ignored (R26). -/
def bufbaseStored (v : Word) : Word := (v.extractLsb' 0 16).setWidth 32

end Sys2Proof.Machine
end

