-- ==== Sys2Proof/Machine/Ops.lean ====
section
/-! DEFINITION. Sys2Proof/Machine/Ops.lean: the pseudocode primitives of R9 over the state: buffer accesses, events,
polls, data reads, the watchdog-bounded wait, `finish` and the timeout exit. A failure takes no trap (R106): `finish`
and `timeoutExit` are the block's whole "exception entry", shared by every command, and there is no return (R107). -/

namespace Sys2Proof.Machine

/-- Element `k` of BUF, `none` when undefined (R28). -/
def Memory.read (m : Memory) (k : Nat) : Option Byte :=
  match m with
  | [] => none
  | (a, b) :: rest => if a = k then some b else Memory.read rest k

/-- Element `k` of BUF becomes byte `v`; nothing else changes (R62). -/
def Memory.write (m : Memory) (k : Nat) (v : Byte) : Memory :=
  match m with
  | [] => [(k, v)]
  | (a, b) :: rest =>
    if k < a then (k, v) :: (a, b) :: rest
    else if k = a then (k, v) :: rest
    else (a, b) :: Memory.write rest k v

/-- The canonical form: indices strictly rising. An unlisted element is undefined, so no entry is redundant. -/
abbrev Memory.wf (m : Memory) : Prop := m.Pairwise (fun x y => x.1 < y.1)

/-- Every defined element is an element of BUF: its index is below BUF_SIZE (R28). -/
abbrev Memory.below (m : Memory) (size : Nat) : Prop := ∀ c ∈ m, c.1 < size

/-- Are elements `k` to `k + n - 1` all defined? (R62, R80) -/
def Memory.definedFrom (m : Memory) (k n : Nat) : Bool :=
  match n with
  | 0 => true
  | n + 1 => (Memory.read m k).isSome && Memory.definedFrom m (k + 1) n

/-- The `n`-th coming poll answer, `n` from 0: a listed one, then a free value (R39). -/
def Env.pollAt (e : Env) (n : Nat) : Bool :=
  match e.polls[n]? with
  | some v => v
  | none => Config.freePoll (e.pollsDrawn + (n - e.polls.length))

/-- The `n`-th coming received byte, `n` from 0 (R39). -/
def Env.rxAt (e : Env) (n : Nat) : Byte :=
  match e.rxs[n]? with
  | some b => b
  | none => Config.freeRx (e.rxsDrawn + (n - e.rxs.length))

/-- The oracle after `n` more polls. -/
def Env.afterPolls (e : Env) (n : Nat) : Env :=
  { e with polls := e.polls.drop n, pollsDrawn := e.pollsDrawn + (n - e.polls.length) }

/-- The oracle after `n` more data reads. -/
def Env.afterRxs (e : Env) (n : Nat) : Env :=
  { e with rxs := e.rxs.drop n, rxsDrawn := e.rxsDrawn + (n - e.rxs.length) }

/-- `emit E`: append the event to TRACE and make the state change R37 gives with it (R9, R36). -/
def emit (e : Event) (s : State) : State :=
  { s with
    trace := s.trace ++ [e]
    phase := e.phaseAfter s.phase
    ack := e.ackAfter s.ack
    pos := e.posAfter s.pos
    enabled := e.enabledAfter s.enabled }

/-- The answer `poll(f)` receives (R9, R39). -/
def pollAnswer (s : State) : Bool := s.env.pollAt 0

/-- `poll(f)`: the environment answers, and the poll is recorded with its answer (R9, R37). -/
def poll (f : StatusFlag) (s : State) : State :=
  emit (.poll f (pollAnswer s)) { s with env := s.env.afterPolls 1 }

/-- The byte `rx()` receives (R9, R39). -/
def rxByte (s : State) : Byte := s.env.rxAt 0

/-- `rx()`: the environment returns a byte, and the data read is recorded (R9, R37). -/
def rx (s : State) : State :=
  emit (.rx (rxByte s)) { s with env := s.env.afterRxs 1 }

/-- IDX counts the data bytes moved (R23); it exists only while a command executes. -/
def advanceIdx (s : State) : State :=
  { s with seq := s.seq.map (fun p => { p with idx := p.idx + 1 }) }

/-- `MemRead(k, 1)` (R44). -/
def memRead (k : Nat) (s : State) : Except Fault Byte :=
  if k < s.params.bufSize then
    match Memory.read s.buf k with
    | some b => .ok b
    | none => .error .undefinedBufferByte
  else .error .bufferIndexOutside

/-- `MemWrite(k, 1, b)` (R45). -/
def memWrite (k : Nat) (b : Byte) (s : State) : Except Fault State :=
  if k < s.params.bufSize then .ok { s with buf := Memory.write s.buf k b }
  else .error .bufferIndexOutside

/-- `finish(rc)`: RESULT <- zext_32(rc); the sequencer position becomes "no command" (R104). -/
def finish (rc : ResultCode) (s : State) : State :=
  { s with result := rc.toWord, seq := none }

/-- `timeout_exit()` (R83): no STOP, no further event, ACK and POS as they are. -/
def timeoutExit (s : State) : State :=
  finish .timeoutError { s with phase := .timedOut, line := .unknown, busy := false }

/-- How an operation of a command ends: the command goes on, the command is over, or ModelFault. -/
inductive Flow where
  | go (s : State)
  | ended (s : State)
  | fault (r : Fault)

/-- Go on with `k` where a command goes on. -/
def Flow.andThen (x : Flow) (k : State → Flow) : Flow :=
  match x with
  | .go s => k s
  | .ended s => .ended s
  | .fault r => .fault r

/-- The loop of `wait(f)` (R77), `n` the value of TB: at 0 the timeout exit; else poll, return on true, and on false
decrement TB and go round. -/
def waitLoop (f : StatusFlag) (n : Nat) (s : State) : Flow :=
  match n with
  | 0 => .ended (timeoutExit s)
  | n + 1 =>
    match pollAnswer s with
    | true => .go (poll f s)
    | false => waitLoop f n { poll f s with tb := n }

/-- `wait(f)`: TB <- TIMEOUT_LIMIT, then the loop (R77). -/
def waitFor (f : StatusFlag) (s : State) : Flow :=
  waitLoop f s.params.timeoutLimit { s with tb := s.params.timeoutLimit }

end Sys2Proof.Machine
end

