-- ==== Sys2Proof/Machine/Sequencer.lean ====
section
/-! DEFINITION. Sys2Proof/Machine/Sequencer.lean: running a command's operations, to completion (`runOps`) and one
controller step at a time (`ctrlStep`, R13). -/

namespace Sys2Proof.Machine

/-- `emit TX(MemRead(k, 1))`, one data byte of a WRITE (R80). -/
def txBufOp (k : Nat) (s : State) : Flow :=
  match memRead k s with
  | .ok b => .go (advanceIdx (emit (.tx b) s))
  | .error r => .fault r

/-- `MemWrite(k, 1, rx())`, one data byte of a READ, written at the moment of its RX event (R45). -/
def rxBufOp (k : Nat) (s : State) : Flow :=
  match memWrite k (rxByte s) (rx s) with
  | .ok t => .go (advanceIdx t)
  | .error r => .fault r

/-- One operation of a command, a wait taken to its end. -/
def doOp (op : CtrlOp) (s : State) : Flow :=
  match op with
  | .emit e => .go (emit e s)
  | .start => .go (emit (.start s.line) s)
  | .txBuf k => txBufOp k s
  | .rxBuf k => rxBufOp k s
  | .wait f => waitFor f s
  | .polling f => waitLoop f s.tb s
  | .setPhase p => .go { s with phase := p }
  | .setLine l => .go { s with line := l }
  | .setBusy b => .go { s with busy := b }
  | .setDir d => .go { s with dir := d }
  | .setAck b => .go { s with ack := b }
  | .setPos b => .go { s with pos := b }
  | .setInitialized b => .go { s with initialized := b }
  | .setCfg c => .go { s with cfg := c }
  | .setRdata w => .go { s with rdata := w }
  | .finish rc => .ended (finish rc s)

/-- Operations in order, up to the one that ends the command (R56). -/
def runFlow (ops : List CtrlOp) (s : State) : Flow :=
  match ops with
  | [] => .go s
  | op :: rest => (doOp op s).andThen (runFlow rest)

/-- A whole command (R55): its operations, the last of which is its `finish` (R104). An operation list that ends
without one leaves "no command" (log 12; no command's list does). -/
def runOps (ops : List CtrlOp) (s : State) : Host.Outcome State Fault Refusal :=
  match runFlow ops s with
  | .go t => .next { t with seq := none }
  | .ended t => .next t
  | .fault r => .fault r

/-- A whole command whose operation list may itself be a ModelFault (R62). -/
def runCommand (ops : Except Fault (List CtrlOp)) (s : State) : Host.Outcome State Fault Refusal :=
  match ops with
  | .ok l => runOps l s
  | .error r => .fault r

/-- The sequencer position's remaining operations replaced; "no command" stays so. -/
def setTodo (l : List CtrlOp) (s : State) : State :=
  { s with seq := s.seq.map (fun p => { p with todo := l }) }

/-- One controller step (R13): one event, one poll, one data read with its BUF write, or one state change. A `wait`
first loads TB, then each step of its loop makes one poll or takes the timeout exit (R77). -/
def ctrlOpStep (op : CtrlOp) (rest : List CtrlOp) (s : State) : Host.Outcome State Fault Refusal :=
  match op with
  | .wait f => .next (setTodo (.polling f :: rest) { s with tb := s.params.timeoutLimit })
  | .polling f =>
    match s.tb with
    | 0 => .next (timeoutExit s)
    | n + 1 =>
      match pollAnswer s with
      | true => .next (setTodo rest (poll f s))
      | false => .next (setTodo (.polling f :: rest) { poll f s with tb := n })
  | _ =>
    match doOp op s with
    | .go t => .next (setTodo rest t)
    | .ended t => .next t
    | .fault r => .fault r

/-- The controller's step while a command is in progress (R13, R23). -/
def ctrlStep (p : SeqPos) (s : State) : Host.Outcome State Fault Refusal :=
  match p.todo with
  | [] => .next { s with seq := none }
  | op :: rest => ctrlOpStep op rest s

end Sys2Proof.Machine
end

