-- ==== Sys2Proof/Machine/Lifecycle.lean ====
section
/-! DEFINITION. Sys2Proof/Machine/Lifecycle.lean: INIT (40_bus_initializer.md), UNINIT, POWER and the slave-mode stubs
(43_power_lifecycle.md), and the reserved opcodes (R65). -/

namespace Sys2Proof.Machine

/-- INIT (R70). -/
def initOps (p : Params) : List CtrlOp :=
  [.emit .pinsCfg, .emit .periphReset, .emit .clkCfg, .setCfg (some (busConfig p)), .setInitialized true]
    ++ (if p.initEnables then [.emit .enable] else [])
    ++ [.setPhase .idle, .setLine .released, .setBusy false, .setDir .write, .finish .ok]

/-- INIT (R70). -/
def execInit (s : State) : Host.Outcome State Fault Refusal := runOps (initOps s.params) s

/-- UNINIT (R94). -/
def uninitOps : List CtrlOp :=
  [ .emit .disable, .setInitialized false, .setCfg none, .setAck false, .setPos false,
    .setPhase .idle, .setLine .released, .finish .ok ]

/-- UNINIT (R94). -/
def execUninit (s : State) : Host.Outcome State Fault Refusal := runOps uninitOps s

/-- POWER (R93). -/
def powerOps (st : PowerState) : List CtrlOp :=
  match st with
  | .full => [.emit .enable, .finish .ok]
  | .off => [.emit .disable, .setLine .released, .finish .ok]
  | .low => [.finish .unsupportedError]
  | .unnamed => [.finish .unsupportedError]

/-- POWER (R93). -/
def execPower (st : PowerState) (s : State) : Host.Outcome State Fault Refusal := runOps (powerOps st) s

/-- SLAVE_TX (R95). -/
def slaveTxOps : List CtrlOp := [.finish .unsupportedError]

/-- SLAVE_TX (R95). -/
def execSlaveTx (s : State) : Host.Outcome State Fault Refusal := runOps slaveTxOps s

/-- SLAVE_RX (R96). -/
def slaveRxOps : List CtrlOp := [.finish .unsupportedError]

/-- SLAVE_RX (R96). -/
def execSlaveRx (s : State) : Host.Outcome State Fault Refusal := runOps slaveRxOps s

/-- A command with a reserved opcode (R65). -/
def reservedOps : List CtrlOp := [.finish .unsupportedError]

/-- A command with a reserved opcode (R65). -/
def execReserved (s : State) : Host.Outcome State Fault Refusal := runOps reservedOps s

end Sys2Proof.Machine
end

