-- ==== Sys2Proof/Machine/Transfer.lean ====
section
/-! DEFINITION. Sys2Proof/Machine/Transfer.lean: what WRITE and READ share, and WRITE (41_transaction_executor.md). -/

namespace Sys2Proof.Machine

/-- DIR <- d; BUSY <- 1 (R76); START and the address phase (R78, R79). R37 moves PHASE to START_PENDING with START. -/
def transferHead (addr : BitVec 7) (d : Dir) : List CtrlOp :=
  [ .setDir d, .setBusy true,
    .start, .wait .sb,
    .emit (.tx (addressByte addr d)), .setPhase .addressPending, .wait .addr,
    .setPhase .addressAcked ]

/-- `end_transfer(stopped)` (R81): the repeated-START arbiter's decision. -/
def endTransfer (stopped : Bool) : List CtrlOp :=
  (if stopped then [.setLine .released] else [.setPhase .chained, .setLine .held])
    ++ [.setPhase .idle, .setBusy false, .finish .ok]

/-- `stop_point()` (R86) and WRITE's last step before `end_transfer` (R80). -/
def stopPoint (stops : Bool) : List CtrlOp :=
  if stops then [.emit .stop, .setPhase .stopping] else []

/-- WRITE's byte loop: `n` data bytes from BUF[k] on (R80). -/
def txLoop (k n : Nat) : List CtrlOp :=
  match n with
  | 0 => []
  | n + 1 => .wait .txe :: .txBuf k :: txLoop (k + 1) n

/-- WRITE after its checks (R80). -/
def writeSequence (addr : BitVec 7) (base len : Nat) (pend : Bool) : List CtrlOp :=
  transferHead addr .write
    ++ [.emit .clrAddr, .setPhase .transferring]
    ++ txLoop base len
    ++ [.wait .btf]
    ++ stopPoint (!pend)
    ++ endTransfer (!pend)

/-- WRITE: the parameter checks, then the undefined-buffer ModelFault, then the bus sequence (R80, R105). -/
def writeOps (addr : BitVec 7) (len : Nat) (pend bufv : Bool) (s : State) : Except Fault (List CtrlOp) :=
  if transferChecksPass len bufv s then
    if Memory.definedFrom s.buf s.base len then .ok (writeSequence addr s.base len pend)
    else .error .undefinedBufferByte
  else .ok [.finish .parameterError]

/-- WRITE (R80). -/
def execWrite (addr : BitVec 7) (len : Nat) (pend bufv : Bool) (s : State) : Host.Outcome State Fault Refusal :=
  runCommand (writeOps addr len pend bufv s) s

end Sys2Proof.Machine
end

