-- ==== Sys2Proof/Machine/ReadSequencer.lean ====
section
/-! DEFINITION. Sys2Proof/Machine/ReadSequencer.lean: READ and its three procedures (42_read_sequencer.md). -/

namespace Sys2Proof.Machine

/-- `read1()`, LEN = 1 (R88). -/
def read1 (base : Nat) (stops : Bool) : List CtrlOp :=
  [.emit .ackOff, .emit .clrAddr, .setPhase .transferring]
    ++ stopPoint stops
    ++ [.wait .rxne, .rxBuf base]

/-- `read2()`, LEN = 2 (R89). -/
def read2 (base : Nat) (stops : Bool) : List CtrlOp :=
  [.emit .posOnAckOff, .emit .clrAddr, .setPhase .transferring, .wait .btf]
    ++ stopPoint stops
    ++ [.rxBuf base, .rxBuf (base + 1), .emit .posOff]

/-- The loop of `readN()`: `n` bytes into BUF[k] on (R90). -/
def rxLoop (k n : Nat) : List CtrlOp :=
  match n with
  | 0 => []
  | n + 1 => .wait .rxne :: .rxBuf k :: rxLoop (k + 1) n

/-- `readN()`, LEN >= 3: the loop reads LEN-3 bytes, so that three remain (R90, C2, C3). -/
def readN (base len : Nat) (stops : Bool) : List CtrlOp :=
  [.emit .ackOn, .emit .clrAddr, .setPhase .transferring]
    ++ rxLoop base (len - 3)
    ++ [.wait .btf, .emit .ackOff, .rxBuf (base + len - 3)]
    ++ stopPoint stops
    ++ [.rxBuf (base + len - 2), .wait .rxne, .rxBuf (base + len - 1)]

/-- The byte sequencing of a READ, chosen by LEN (R86). -/
def readProcedure (base len : Nat) (stops : Bool) : List CtrlOp :=
  if len = 1 then read1 base stops
  else if len = 2 then read2 base stops
  else readN base len stops

/-- READ after its checks (R86). -/
def readSequence (addr : BitVec 7) (base len : Nat) (stops : Bool) : List CtrlOp :=
  transferHead addr .read ++ readProcedure base len stops ++ endTransfer stops

/-- READ: the parameter checks, then the bus sequence (R86). -/
def readOps (addr : BitVec 7) (len : Nat) (pend bufv : Bool) (s : State) : List CtrlOp :=
  if transferChecksPass len bufv s then readSequence addr s.base len (readStops s.params pend)
  else [.finish .parameterError]

/-- READ (R86). -/
def execRead (addr : BitVec 7) (len : Nat) (pend bufv : Bool) (s : State) : Host.Outcome State Fault Refusal :=
  runOps (readOps addr len pend bufv s) s

end Sys2Proof.Machine
end

