-- ==== Sys2Proof/Machine/Report.lean ====
section
/-! DEFINITION. Sys2Proof/Machine/Report.lean: GET_STATUS, GET_VERSION, GET_CAPABILITIES and CONTROL
(44_status_capability.md). None emits a bus event. -/

namespace Sys2Proof.Machine

/-- GET_STATUS (R98). -/
def getStatusOps (s : State) : List CtrlOp := [.setRdata (statusWord s.dir s.busy), .finish .ok]

/-- GET_STATUS (R98). -/
def execGetStatus (s : State) : Host.Outcome State Fault Refusal := runOps (getStatusOps s) s

/-- GET_VERSION (R99). -/
def getVersionOps (p : Params) : List CtrlOp := [.setRdata p.versionWord, .finish .ok]

/-- GET_VERSION (R99). -/
def execGetVersion (s : State) : Host.Outcome State Fault Refusal := runOps (getVersionOps s.params) s

/-- GET_CAPABILITIES: the descriptor has no bit set (R100). -/
def getCapabilitiesOps : List CtrlOp := [.setRdata 0x00000000, .finish .ok]

/-- GET_CAPABILITIES (R100). -/
def execGetCapabilities (s : State) : Host.Outcome State Fault Refusal := runOps getCapabilitiesOps s

/-- CONTROL (R101). -/
def controlOps (option value : Nat) : List CtrlOp :=
  if controlSupported option value then [.finish .ok] else [.finish .unsupportedError]

/-- CONTROL (R101). -/
def execControl (option value : Nat) (s : State) : Host.Outcome State Fault Refusal :=
  runOps (controlOps option value) s

end Sys2Proof.Machine
end

