-- ==== Sys2Proof/Machine/Dispatch.lean ====
section
/-! DEFINITION. Sys2Proof/Machine/Dispatch.lean: the meaning of each command, one arm per constructor of `Instr`. -/

namespace Sys2Proof.Machine

/-- A whole command (R55, R63). -/
def exec (i : Instr) (s : State) : Host.Outcome State Fault Refusal :=
  match i with
  | .init => Sys2Proof.Machine.execInit s
  | .uninit => Sys2Proof.Machine.execUninit s
  | .power st => Sys2Proof.Machine.execPower st s
  | .write addr len pend bufv => Sys2Proof.Machine.execWrite addr len pend bufv s
  | .read addr len pend bufv => Sys2Proof.Machine.execRead addr len pend bufv s
  | .control option value => Sys2Proof.Machine.execControl option value s
  | .getStatus => Sys2Proof.Machine.execGetStatus s
  | .getVersion => Sys2Proof.Machine.execGetVersion s
  | .getCapabilities => Sys2Proof.Machine.execGetCapabilities s
  | .slaveTx => Sys2Proof.Machine.execSlaveTx s
  | .slaveRx => Sys2Proof.Machine.execSlaveRx s

end Sys2Proof.Machine
end

