-- ==== Sys2Proof/Machine/HostPort.lean ====
section
/-! DEFINITION. Sys2Proof/Machine/HostPort.lean: the host's accesses to the registers and the BUF window
(20_memory.md), the start of a command, and the command one controller step at a time. -/

namespace Sys2Proof.Machine

/-- The command `w` becomes the sequencer position's current command, with IDX 0 (R23). -/
def acceptCommand (w : Word) (s : State) : State :=
  { s with seq := some { word := w, idx := 0, todo := [] } }

/-- A host write of `w` to CMD: the whole command, before the write completes (R22, R55). -/
def cmdWrite (w : Word) (s : State) : Host.Outcome State Fault Refusal :=
  match decode w with
  | .command i => exec i (acceptCommand w s)
  | .reservedOpcode _ => execReserved (acceptCommand w s)

/-- The operations of each command, from the state in which it starts; `exec` runs them. -/
def commandOps (i : Instr) (s : State) : Except Fault (List CtrlOp) :=
  match i with
  | .init => .ok (initOps s.params)
  | .uninit => .ok uninitOps
  | .power st => .ok (powerOps st)
  | .write addr len pend bufv => writeOps addr len pend bufv s
  | .read addr len pend bufv => .ok (readOps addr len pend bufv s)
  | .control option value => .ok (controlOps option value)
  | .getStatus => .ok (getStatusOps s)
  | .getVersion => .ok (getVersionOps s.params)
  | .getCapabilities => .ok getCapabilitiesOps
  | .slaveTx => .ok slaveTxOps
  | .slaveRx => .ok slaveRxOps

/-- The operations of the command word `w` (R63, R65). -/
def wordOps (w : Word) (s : State) : Except Fault (List CtrlOp) :=
  match decode w with
  | .command i => commandOps i s
  | .reservedOpcode _ => .ok reservedOps

/-- The state in which command `w` has just started and none of its controller steps has run (R13, R23). -/
def startCommand (w : Word) (s : State) : Except Fault State :=
  match wordOps w s with
  | .ok ops => .ok (setTodo ops (acceptCommand w s))
  | .error r => .error r

/-- What the host gets back, appended to what it got before (R15). -/
def hostReturn (d : HostDatum) (s : State) : State := { s with hostData := s.hostData ++ [d] }

/-- The word a 32-bit host read of register offset `off` returns: CMD and the reserved offsets 0; RESULT[31:2] and
BUFBASE[31:16] read as 0 (R22, R24, R25, R26, R46). -/
def registerValue (off : Nat) (s : State) : Word :=
  match off with
  | 0x000 => 0
  | 0x004 => (s.result.extractLsb' 0 2).setWidth 32
  | 0x008 => s.rdata
  | 0x00C => bufbaseStored s.bufbase
  | _ => 0

/-- A 32-bit host read of the register at `off`; it has no side effect (R52). -/
def registerRead (off : Nat) (s : State) : Host.Outcome State Fault Refusal :=
  .next (hostReturn (.word (registerValue off s)) s)

/-- A 32-bit host write of `v` to the register at `off`: CMD starts a command, BUFBASE stores, every other write is
ignored (R22, R24, R25, R26, R46, R52). -/
def registerWrite (off : Nat) (v : Word) (s : State) : Host.Outcome State Fault Refusal :=
  match off with
  | 0x000 => cmdWrite v s
  | 0x00C => .next { s with bufbase := bufbaseStored v }
  | _ => .next s

/-- A host read of BUF[k]; an undefined element is ModelFault (R62). -/
def bufferRead (k : Nat) (s : State) : Host.Outcome State Fault Refusal :=
  match memRead k s with
  | .ok b => .next (hostReturn (.byte b) s)
  | .error r => .fault r

/-- A host write of byte `b` to BUF[k] (R46, R52). -/
def bufferWrite (k : Nat) (b : Byte) (s : State) : Host.Outcome State Fault Refusal :=
  match memWrite k b s with
  | .ok t => .next t
  | .error r => .fault r

/-- An admitted access to the register at `off` (R46). -/
def registerAccess (off : Nat) (kind : AccessKind) (s : State) : Host.Outcome State Fault Refusal :=
  match kind with
  | .read => registerRead off s
  | .write v => registerWrite off v s

/-- An admitted access to BUF[k] (R46). -/
def bufferAccess (k : Nat) (kind : AccessKind) (s : State) : Host.Outcome State Fault Refusal :=
  match kind with
  | .read => bufferRead k s
  | .write v => bufferWrite k (v.extractLsb' 0 8) s

/-- One host access (R46): below 0x100 aligned 32-bit accesses, in the BUF window byte accesses (R47); on any other
the host is stuck (R48). -/
def hostAccess (a : HostAccess) (s : State) : Host.Outcome State Fault Refusal :=
  let off := a.offset.toNat
  if off < bufWindow then
    if a.width ≠ .w32 then .refused .registerAccessWidth
    else if off % 4 ≠ 0 then .refused .registerAccessMisaligned
    else registerAccess off a.kind s
  else if off < bufWindow + s.params.bufSize then
    if a.width ≠ .w8 then .refused .bufferAccessWidth
    else bufferAccess (off - bufWindow) a.kind s
  else .refused .outsideBlock

/-- A host write of `w` to CMD. -/
def cmdAccess (w : Word) : HostAccess := { offset := 0x000, width := .w32, kind := .write w }

end Sys2Proof.Machine
end

