-- ==== Sys2Proof/Machine/Step.lean ====
section
/-! DEFINITION. Sys2Proof/Machine/Step.lean: one step, and how a command word is given to the next step. -/

namespace Sys2Proof.Machine

/-- One step (log 5): while a command is in progress, one controller step, and no host access is accepted (R13, R55);
else the next host access, a CMD write with its whole command (R55, R56); with no access left the block waits
(R14, R116). -/
def step (s : State) : Host.Outcome State Fault Refusal :=
  match s.seq with
  | some p => ctrlStep p s
  | none =>
    match s.host with
    | [] => .next s
    | a :: rest => hostAccess a { s with host := rest }

/-- `s` with the table word `w` of `nbits` bits as the host's next access, a write to CMD, and no command in progress,
so that the next step runs it (log 7). -/
def State.withFetchWord (s : State) (nbits w : Nat) : State :=
  { s with seq := none, host := cmdAccess (BitVec.ofNat 32 (w % 2 ^ nbits)) :: s.host }

end Sys2Proof.Machine
end

