-- ==== Sys2Proof/Machine/Assembler.lean ====
section
/-! DEFINITION. Sys2Proof/Machine/Assembler.lean: the assembler of R67 to R69: the lines of a host program, their text,
and the host accesses they stand for. No step reads this file; it places a program in `State.host`. -/

namespace Sys2Proof.Machine

/-- A line of a host program: a command, a host access, or a pseudo-instruction (R67, R68). -/
inductive AsmLine where
  | command (i : Instr)
  /-- `SETBASE n`: the host writes BUFBASE. -/
  | setBase (n : Word)
  /-- `STB k, v`: the host writes byte v to BUF[k]. -/
  | stb (k : Nat) (v : Byte)
  /-- `LDB k`: the host reads BUF[k]. -/
  | ldb (k : Nat)
  /-- `LDR RESULT`. -/
  | ldrResult
  /-- `LDR RDATA`. -/
  | ldrRdata
  /-- `REGWRITE addr, reg, val` (R68). -/
  | regWrite (addr : BitVec 7) (reg val : Byte)
  /-- `REGREAD addr, reg, n` (R68). -/
  | regRead (addr : BitVec 7) (reg : Byte) (n : Nat)
deriving DecidableEq, Repr

/-- The offset of BUF[k] (R46). -/
def bufOffset (k : Nat) : Word := BitVec.ofNat 32 (bufWindow + k)

/-- The host access of `STB k, v` (R67). -/
def storeByteAccess (k : Nat) (v : Byte) : HostAccess :=
  { offset := bufOffset k, width := .w8, kind := .write (v.setWidth 32) }

/-- The host access of `LDB k` (R67). -/
def loadByteAccess (k : Nat) : HostAccess := { offset := bufOffset k, width := .w8, kind := .read }

/-- The pseudo-instructions expanded, `base` the current BUFBASE[15:0]; any other line stands for itself (R68). -/
def AsmLine.expand (base : Nat) : AsmLine → List AsmLine
  | .regWrite addr reg val => [.stb base reg, .stb (base + 1) val, .command (.write addr 2 false true)]
  | .regRead addr reg n =>
    [.stb base reg, .command (.write addr 1 true true), .command (.read addr n false true)]
  | line => [line]

/-- The accesses of one line without pseudo-instructions; a pseudo-instruction has none of its own (R67). -/
def AsmLine.accesses : AsmLine → List HostAccess
  | .command i => [cmdAccess (encode i)]
  | .setBase n => [{ offset := 0x00C, width := .w32, kind := .write n }]
  | .stb k v => [storeByteAccess k v]
  | .ldb k => [loadByteAccess k]
  | .ldrResult => [{ offset := 0x004, width := .w32, kind := .read }]
  | .ldrRdata => [{ offset := 0x008, width := .w32, kind := .read }]
  | .regWrite .. => []
  | .regRead .. => []

/-- BASE after a line: SETBASE is the only line that changes BUFBASE (R26). -/
def AsmLine.baseAfter (base : Nat) : AsmLine → Nat
  | .setBase n => (bufbaseStored n).toNat
  | _ => base

/-- The host accesses of a program, in order, from the BASE it starts with (R56, R67, R68). -/
def assemble (base : Nat) (prog : List AsmLine) : List HostAccess :=
  match prog with
  | [] => []
  | line :: rest => (line.expand base).flatMap AsmLine.accesses ++ assemble (line.baseAfter base) rest

/-- A program placed as the host's next accesses (log 7). -/
def State.withProgram (s : State) (prog : List AsmLine) : State :=
  { s with host := assemble s.base prog ++ s.host }

/-! The text of a line (R67). -/

/-- Why a line of text is no line of R67. -/
inductive AsmError where
  | unknownMnemonic
  | badOperands
deriving DecidableEq, Repr

/-- The text before a `;`. -/
def dropComment (cs : List Char) : List Char := cs.takeWhile (fun c => c != ';')

/-- Is the character white space? A space, a tab or a carriage return. DESIGN CHOICE (log 15): R67 does not say. -/
def isBlank (c : Char) : Bool := c == ' ' || c == '\t' || c == '\r'

/-- The text without white space at its ends. -/
def trimBlanks (cs : List Char) : List Char :=
  ((cs.dropWhile isBlank).reverse.dropWhile isBlank).reverse

/-- The pieces of a text between separators. -/
def splitText (sep : Char) (cs : List Char) : List (List Char) :=
  match cs with
  | [] => [[]]
  | c :: rest =>
    match splitText sep rest with
    | [] => [[]]
    | piece :: pieces => if c = sep then [] :: piece :: pieces else (c :: piece) :: pieces

/-- The value of a digit in base `radix`, or none. -/
def digitValue (radix : Nat) (c : Char) : Option Nat :=
  let n := c.toNat
  let d :=
    if 48 ≤ n ∧ n ≤ 57 then n - 48
    else if 65 ≤ n ∧ n ≤ 70 then n - 55
    else if 97 ≤ n ∧ n ≤ 102 then n - 87
    else radix
  if d < radix then some d else none

/-- A nonempty string of digits as a number, `acc` read so far. -/
def digitsValue (radix acc : Nat) (cs : List Char) : Option Nat :=
  match cs with
  | [] => some acc
  | c :: rest =>
    match digitValue radix c with
    | some d => digitsValue radix (acc * radix + d) rest
    | none => none

/-- A decimal or `0x` number, or one of the predefined names BUS_SPEED and STANDARD (R67). -/
def numberValue (cs : List Char) : Option Nat :=
  if cs = "BUS_SPEED".toList then some 0x01
  else if cs = "STANDARD".toList then some 0x0001
  else match cs with
    | [] => none
    | '0' :: 'x' :: d :: ds => digitsValue 16 0 (d :: ds)
    | _ => digitsValue 10 0 cs

/-- A number at most `bound`. -/
def boundedNumber (bound : Nat) (cs : List Char) : Option Nat :=
  match numberValue cs with
  | some n => if n ≤ bound then some n else none
  | none => none

/-- The options after the length of a WRITE or READ: `PEND` sets PEND = 1, `NOBUF` sets BUFV = 0 (R67). -/
def transferOptions (ops : List (List Char)) : Option (Bool × Bool) :=
  match ops with
  | [] => some (false, true)
  | [o] =>
    if o = "PEND".toList then some (true, true)
    else if o = "NOBUF".toList then some (false, false)
    else none
  | [o, p] => if o = "PEND".toList ∧ p = "NOBUF".toList then some (true, false) else none
  | _ => none

/-- The operands of WRITE or READ, given to the constructor `mk` (R67). -/
def parseTransfer (mk : BitVec 7 → Nat → Bool → Bool → Instr) (ops : List (List Char)) : Option AsmLine :=
  match ops with
  | a :: l :: opts => do
    let a ← boundedNumber 127 a
    let l ← boundedNumber 65535 l
    let o ← transferOptions opts
    some (.command (mk (BitVec.ofNat 7 a) l o.1 o.2))
  | _ => none

/-- POWER's operand: a name or a number 0 to 3 (R67). -/
def parsePower (ops : List (List Char)) : Option AsmLine :=
  match ops with
  | [o] =>
    if o = "OFF".toList then some (.command (.power .off))
    else if o = "LOW".toList then some (.command (.power .low))
    else if o = "FULL".toList then some (.command (.power .full))
    else do
      let n ← boundedNumber 3 o
      some (.command (.power (PowerState.ofBits (BitVec.ofNat 2 n))))
  | _ => none

/-- A line without operands. -/
def parseNone (line : AsmLine) (ops : List (List Char)) : Option AsmLine :=
  if ops = [] then some line else none

/-- CONTROL's operands (R67). -/
def parseControl (ops : List (List Char)) : Option AsmLine :=
  match ops with
  | [o, v] => do
    let o ← boundedNumber 255 o
    let v ← boundedNumber 65535 v
    some (.command (.control o v))
  | _ => none

/-- SETBASE's operand: the word the host writes to BUFBASE (R67). -/
def parseSetBase (ops : List (List Char)) : Option AsmLine :=
  match ops with
  | [n] => do
    let n ← boundedNumber 0xFFFFFFFF n
    some (.setBase (BitVec.ofNat 32 n))
  | _ => none

/-- STB's operands (R67). -/
def parseStb (ops : List (List Char)) : Option AsmLine :=
  match ops with
  | [k, v] => do
    let k ← boundedNumber 65535 k
    let v ← boundedNumber 255 v
    some (.stb k (BitVec.ofNat 8 v))
  | _ => none

/-- LDB's operand (R67). -/
def parseLdb (ops : List (List Char)) : Option AsmLine :=
  match ops with
  | [k] => do
    let k ← boundedNumber 65535 k
    some (.ldb k)
  | _ => none

/-- LDR's operand (R67). -/
def parseLdr (ops : List (List Char)) : Option AsmLine :=
  match ops with
  | [r] =>
    if r = "RESULT".toList then some .ldrResult
    else if r = "RDATA".toList then some .ldrRdata
    else none
  | _ => none

/-- REGWRITE's operands (R68). -/
def parseRegWrite (ops : List (List Char)) : Option AsmLine :=
  match ops with
  | [a, r, v] => do
    let a ← boundedNumber 127 a
    let r ← boundedNumber 255 r
    let v ← boundedNumber 255 v
    some (.regWrite (BitVec.ofNat 7 a) (BitVec.ofNat 8 r) (BitVec.ofNat 8 v))
  | _ => none

/-- REGREAD's operands (R68). -/
def parseRegRead (ops : List (List Char)) : Option AsmLine :=
  match ops with
  | [a, r, n] => do
    let a ← boundedNumber 127 a
    let r ← boundedNumber 255 r
    let n ← boundedNumber 65535 n
    some (.regRead (BitVec.ofNat 7 a) (BitVec.ofNat 8 r) n)
  | _ => none

/-- The operands of the line with mnemonic `m`; the outer `none` is an unknown mnemonic (R67, R68). -/
def parseOperands (m : List Char) (ops : List (List Char)) : Option (Option AsmLine) :=
  if m = "INIT".toList then some (parseNone (.command .init) ops)
  else if m = "UNINIT".toList then some (parseNone (.command .uninit) ops)
  else if m = "POWER".toList then some (parsePower ops)
  else if m = "WRITE".toList then some (parseTransfer .write ops)
  else if m = "READ".toList then some (parseTransfer .read ops)
  else if m = "CONTROL".toList then some (parseControl ops)
  else if m = "GET_STATUS".toList then some (parseNone (.command .getStatus) ops)
  else if m = "GET_VERSION".toList then some (parseNone (.command .getVersion) ops)
  else if m = "GET_CAPABILITIES".toList then some (parseNone (.command .getCapabilities) ops)
  else if m = "SLAVE_TX".toList then some (parseNone (.command .slaveTx) ops)
  else if m = "SLAVE_RX".toList then some (parseNone (.command .slaveRx) ops)
  else if m = "SETBASE".toList then some (parseSetBase ops)
  else if m = "STB".toList then some (parseStb ops)
  else if m = "LDB".toList then some (parseLdb ops)
  else if m = "LDR".toList then some (parseLdr ops)
  else if m = "REGWRITE".toList then some (parseRegWrite ops)
  else if m = "REGREAD".toList then some (parseRegRead ops)
  else none

/-- One line of text: none for an empty line or a comment (R67). -/
def parseLine (cs : List Char) : Except AsmError (Option AsmLine) :=
  match trimBlanks (dropComment cs) with
  | [] => .ok none
  | text =>
    let mnemonic := text.takeWhile (fun c => !isBlank c)
    let rest := trimBlanks (text.dropWhile (fun c => !isBlank c))
    let ops := if rest = [] then [] else (splitText ',' rest).map trimBlanks
    match parseOperands mnemonic ops with
    | none => .error .unknownMnemonic
    | some none => .error .badOperands
    | some (some line) => .ok (some line)

/-- A program's text, one line each (R67). -/
def parseLines (lines : List (List Char)) : Except AsmError (List AsmLine) :=
  match lines with
  | [] => .ok []
  | l :: rest =>
    match parseLine l, parseLines rest with
    | .ok (some line), .ok prog => .ok (line :: prog)
    | .ok none, .ok prog => .ok prog
    | .error e, _ => .error e
    | _, .error e => .error e

/-- A program's text (R67). -/
def parseProgram (text : List Char) : Except AsmError (List AsmLine) := parseLines (splitText '\n' text)

end Sys2Proof.Machine
end

