-- ==== Sys2Proof/Machine/Observe.lean ====
section
/-! DEFINITION. Sys2Proof/Machine/Observe.lean: the observations that are functions of TRACE (R78, R103, R113). -/

namespace Sys2Proof.Machine

/-- Is the event a STOP? -/
def Event.isStop : Event → Bool
  | .stop => true
  | _ => false

/-- Is the event a poll of flag `f`? -/
def Event.isPollOf (f : StatusFlag) : Event → Bool
  | .poll g _ => decide (g = f)
  | _ => false

/-- Is the event a poll that answered false? -/
def Event.isFailedPoll : Event → Bool
  | .poll _ v => !v
  | _ => false

/-- Is the event a poll? -/
def Event.isPoll : Event → Bool
  | .poll _ _ => true
  | _ => false

/-- Is the event a repeated start: a START with LINE = Held just before it? (R37, R78) -/
def Event.isRepeatedStart : Event → Bool
  | .start l => decide (l = .held)
  | _ => false

/-- The byte a data read returned, or none (R37). -/
def Event.received : Event → Option Byte
  | .rx b => some b
  | _ => none

/-- The byte loaded into the data register, or none (R37). -/
def Event.loaded : Event → Option Byte
  | .tx b => some b
  | _ => none

/-- The flag a poll tests, or none. -/
def Event.polled : Event → Option StatusFlag
  | .poll f _ => some f
  | _ => none

/-- The stop-assertion counter (R113). -/
def stopCount (tr : List Event) : Nat := tr.countP Event.isStop

/-- The flag-access counter: events of any kind (R113). -/
def accessCount (tr : List Event) : Nat := tr.length

/-- How many polls a trace holds. -/
def pollCount (tr : List Event) : Nat := tr.countP Event.isPoll

/-- The polls of the wait for `f` that a trace begins with: its consecutive POLL events of `f` (R113). -/
def waitPolls (f : StatusFlag) (tr : List Event) : Nat := (tr.takeWhile (Event.isPollOf f)).length

/-- How many repeated starts a trace holds (R78). -/
def repeatedStartCount (tr : List Event) : Nat := tr.countP Event.isRepeatedStart

/-- The flag of the last POLL: after a TimeoutError, what it was waiting for (R103). -/
def lastPolled (tr : List Event) : Option StatusFlag := (tr.filterMap Event.polled).getLast?

/-- Has the run of the host program ended? No access is left and no command is in progress (R14). -/
def runEnded (s : State) : Bool := s.host.isEmpty && s.seq.isNone

end Sys2Proof.Machine
end

