-- ==== Sys2Proof/Safety.lean ====
section
/-! DEFINITION. Sys2Proof/Safety.lean: what counts as a safe run, the invariant between host accesses, and the named
environment assumptions of D23, the terms the claims use. -/

namespace Sys2Proof.Machine

/-- A step is safe when it neither faults nor leaves the host stuck (R13, R115). -/
def Outcome.safe (o : Host.Outcome State Fault Refusal) : Bool :=
  match o with
  | .next _ => true
  | .fault _ => false
  | .refused _ => false

/-- The access is one R47 admits, inside the block (R46): only on the others is the host stuck (R48). -/
def HostAccess.admitted (a : HostAccess) (bufSize : Nat) : Bool :=
  if a.offset.toNat < bufWindow then decide (a.width = .w32) && decide (a.offset.toNat % 4 = 0)
  else decide (a.offset.toNat < bufWindow + bufSize) && decide (a.width = .w8)

/-- What holds between any two host accesses (R55): the parameters meet R7, BUF is canonical and inside BUF_SIZE,
reserved register bits are 0 (R24, R26), no command is in progress, BUSY is 0 and PHASE is IDLE or TIMED_OUT (R33,
R35), LINE = Unknown only after a timeout (R34), and CFG is the one record exactly when INITIALIZED (R29). -/
structure State.Inv (s : State) : Prop where
  params : s.params.wf = true
  memory : Memory.wf s.buf
  below : Memory.below s.buf s.params.bufSize
  base : bufbaseStored s.bufbase = s.bufbase
  result : s.result.toNat < 4
  noCommand : s.seq = none
  notBusy : s.busy = false
  phase : s.phase = .idle ∨ s.phase = .timedOut
  line : s.line = .unknown → s.phase = .timedOut
  config : s.cfg = if s.initialized then some (busConfig s.params) else none

/-- ENV_IMMEDIATE for the next `n` polls: each answers true (D23). -/
def EnvImmediate (n : Nat) (s : State) : Prop := ∀ k, k < n → s.env.pollAt k = true

/-- The next `n` polls all answer false. -/
def EnvSilent (n : Nat) (s : State) : Prop := ∀ k, k < n → s.env.pollAt k = false

/-- ENV_RESPONSIVE(k) for the next `waits` waits: wherever a wait begins, its flag answers true within `k` polls
(D23). -/
def EnvResponsive (k waits : Nat) (s : State) : Prop :=
  ∀ p, p < k * waits → ∃ j, j < k ∧ s.env.pollAt (p + j) = true

/-- ENV_DISABLED_SILENT for the next `n` polls (D23). -/
def EnvDisabledSilent (n : Nat) (s : State) : Prop := s.enabled = false → EnvSilent n s

/-- ENV_DATA(xs): the i-th data read returns xs[i] (D23). -/
def EnvData (xs : List Byte) (s : State) : Prop := ∀ i, i < xs.length → xs[i]? = some (s.env.rxAt i)

/-- BUF[k], BUF[k+1], … hold exactly `data`. -/
def BufHolds (k : Nat) (data : List Byte) (s : State) : Prop :=
  ∀ i, i < data.length → Memory.read s.buf (k + i) = data[i]?

/-- The parameter checks of a WRITE or READ pass: a buffer, a LEN that is not 0, a range inside BUF (R73, R74). -/
def TransferReady (len : Nat) (bufv : Bool) (s : State) : Prop :=
  bufv = true ∧ 0 < len ∧ s.base + len ≤ s.params.bufSize

end Sys2Proof.Machine
end

