-- ==== Sys2Proof/Certificates/Slice0/Obligations.lean ====
section
/-! DEFINITION. Sys2Proof/Certificates/Slice0/Obligations.lean: the statements, from the numbered rules of the spec.
The definitions under `Claims` are the statements' own terms, written from the spec and not from the model. -/

namespace Sys2Proof.Claims

open Sys2Proof.Machine

/-- The first four events of a transfer that is acknowledged at once: START with LINE as it was, SB, the address byte
ADDR*2 + d, ADDR (R78, R79, R92). -/
def openingEvents (l : Line) (addr : BitVec 7) (d : Nat) : List Event :=
  [.start l, .poll .sb true, .tx (BitVec.ofNat 8 (addr.toNat * 2 + d)), .poll .addr true]

/-- STOP, when the transfer asserts it. -/
def stopEvents (stops : Bool) : List Event := if stops then [.stop] else []

/-- The events of a WRITE of `data` when every wait succeeds at its first poll (R80). -/
def writeEvents (l : Line) (addr : BitVec 7) (data : List Byte) (stops : Bool) : List Event :=
  openingEvents l addr 0 ++ [.clrAddr]
    ++ data.flatMap (fun b => [.poll .txe true, .tx b])
    ++ [.poll .btf true] ++ stopEvents stops

/-- The events of a READ that receives `xs` when every wait succeeds at its first poll (R88, R89, R90). -/
def readEvents (l : Line) (addr : BitVec 7) (xs : List Byte) (stops : Bool) : List Event :=
  openingEvents l addr 1 ++
    match xs with
    | [x] => [.ackOff, .clrAddr] ++ stopEvents stops ++ [.poll .rxne true, .rx x]
    | [x, y] =>
      [.posOnAckOff, .clrAddr, .poll .btf true] ++ stopEvents stops ++ [.rx x, .rx y, .posOff]
    | _ =>
      [.ackOn, .clrAddr]
        ++ (xs.take (xs.length - 3)).flatMap (fun b => [.poll .rxne true, .rx b])
        ++ [.poll .btf true, .ackOff]
        ++ ((xs.drop (xs.length - 3)).take 1).map .rx
        ++ stopEvents stops
        ++ ((xs.drop (xs.length - 2)).take 1).map .rx
        ++ [.poll .rxne true]
        ++ (xs.drop (xs.length - 1)).map .rx

/-- `Follows limit nominal g ok`: the events `g` are `nominal` with each `POLL(f, 1)` of it made a watchdog-bounded
wait (R77): fewer than `limit` polls that answer false, then one that answers true (`ok` so far); or exactly `limit`
that answer false, after which nothing follows and `ok` is false (R83). -/
inductive Follows (limit : Nat) : List Event → List Event → Bool → Prop where
  | done : Follows limit [] [] true
  | act (e : Event) (n g : List Event) (ok : Bool) (h : e.isPoll = false) (r : Follows limit n g ok) :
      Follows limit (e :: n) (e :: g) ok
  | waited (f : StatusFlag) (j : Nat) (n g : List Event) (ok : Bool) (h : j < limit) (r : Follows limit n g ok) :
      Follows limit (.poll f true :: n) (List.replicate j (.poll f false) ++ .poll f true :: g) ok
  | expired (f : StatusFlag) (n : List Event) :
      Follows limit (.poll f true :: n) (List.replicate limit (.poll f false)) false

/-- The answer a poll received. -/
def pollAnswered : Event → Option Bool
  | .poll _ v => some v
  | _ => none

/-- The polls of `g` received the environment's answers in order (R39). -/
def AnsweredBy (e : Env) (g : List Event) : Prop :=
  g.filterMap pollAnswered = (List.range (pollCount g)).map e.pollAt

/-- The bytes of the environment's next `n` data reads. -/
def nextBytes (e : Env) (n : Nat) : List Byte := (List.range n).map e.rxAt

/-- `xs` stored at BUF[k], BUF[k+1], … -/
def storeBytes (m : Memory) (k : Nat) (xs : List Byte) : Memory :=
  match xs with
  | [] => m
  | x :: rest => storeBytes (Memory.write m k x) (k + 1) rest

/-- ACK after the events of `g`: the last of ACK_ON, ACK_OFF and POS_ON_ACK_OFF decides (R37). -/
def ackAfterEvents (ack : Bool) (g : List Event) : Bool :=
  match g with
  | [] => ack
  | .ackOn :: rest => ackAfterEvents true rest
  | .ackOff :: rest => ackAfterEvents false rest
  | .posOnAckOff :: rest => ackAfterEvents false rest
  | _ :: rest => ackAfterEvents ack rest

/-- POS after the events of `g` (R37). -/
def posAfterEvents (pos : Bool) (g : List Event) : Bool :=
  match g with
  | [] => pos
  | .posOnAckOff :: rest => posAfterEvents true rest
  | .posOff :: rest => posAfterEvents false rest
  | _ :: rest => posAfterEvents pos rest

/-- Does this READ assert STOP? (R91) -/
def assertsStop (p : Params) (pend : Bool) : Bool := !pend || decide (p.readPendingStop = .assert)

/-- The word a one-line program writes to CMD, if that is all it does (R67). -/
def commandWord (text : String) : Option Word :=
  match parseProgram text.toList with
  | .ok prog =>
    match assemble 0 prog with
    | [{ offset := 0x000, width := .w32, kind := .write w }] => some w
    | _ => none
  | .error _ => none

/-- R33: PHASE changes only along IDLE, START_PENDING, ADDRESS_PENDING, ADDRESS_ACKED, TRANSFERRING, STOPPING or
CHAINED, IDLE, and from a wait point to TIMED_OUT: the PHASE before and after one controller step that changes it. -/
inductive PhaseEdge : Phase → Phase → Prop where
  | startIdle : PhaseEdge .idle .startPending
  | startAfterTimeout : PhaseEdge .timedOut .startPending
  | addressSent : PhaseEdge .startPending .addressPending
  | addressed : PhaseEdge .addressPending .addressAcked
  | transfer : PhaseEdge .addressAcked .transferring
  | stop : PhaseEdge .transferring .stopping
  | chain : PhaseEdge .transferring .chained
  | stopped : PhaseEdge .stopping .idle
  | held : PhaseEdge .chained .idle
  | expired (p : Phase) (h : p = .startPending ∨ p = .addressPending ∨ p = .transferring ∨ p = .stopping) :
      PhaseEdge p .timedOut

/-- Is the command a WRITE or READ? -/
def isTransfer : Instr → Bool
  | .write .. => true
  | .read .. => true
  | _ => false

/-- Is the command a WRITE or READ that passes its parameter checks? (R73, R74) -/
def beginsTransfer (i : Instr) (s : State) : Prop :=
  ∃ addr len pend, TransferReady len true s ∧ (i = .write addr len pend true ∨ i = .read addr len pend true)

/-- The two states agree but for INITIALIZED, CFG, ENABLED, ACK, POS and PHASE. -/
def agreeButControl (s t : State) : Prop :=
  t = { s with
    initialized := t.initialized, cfg := t.cfg, enabled := t.enabled, ack := t.ack, pos := t.pos, phase := t.phase }

/-- Two outcomes of one kind whose states agree but for those fields. -/
def outcomesAgree (o p : Host.Outcome State Fault Refusal) : Prop :=
  match o, p with
  | .next s, .next t => agreeButControl s t
  | .fault q, .fault r => q = r
  | .refused q, .refused r => q = r
  | _, _ => False

end Sys2Proof.Claims

open Sys2Proof Sys2Proof.Machine Sys2Proof.Claims

/-! Reset (10_state.md, 70_reset_and_hazards.md) -/

/-- R42: every state element's reset value. -/
def Obligations.ResetValues : Prop :=
  State.reset.result = 0x00000000 ∧ State.reset.rdata = 0x00000000 ∧ State.reset.bufbase = 0x00000000 ∧
  (∀ k, Memory.read State.reset.buf k = none) ∧
  State.reset.initialized = false ∧ State.reset.cfg = none ∧ State.reset.ack = false ∧ State.reset.pos = false ∧
  State.reset.enabled = false ∧ State.reset.phase = .idle ∧ State.reset.line = .released ∧
  State.reset.busy = false ∧ State.reset.dir = .write ∧ State.reset.tb = 0 ∧ State.reset.trace = [] ∧
  State.reset.seq = none

/-- The invariant holds at reset. Its clause on the parameters rests on the model's choice of log 2. -/
def Obligations.ResetMeetsInvariant : Prop := State.reset.Inv

/-! Encoding (30_encoding.md) -/

/-- Decoding an encoded well-formed command gives it back, every operand at every value (R64). -/
def Obligations.DecodeOfEncode : Prop :=
  ∀ i : Instr, i.wellFormed = true → decode (encode i) = .command i

/-- Each word has one meaning: the command a word decodes to is well formed, and encodes to that word with the
reserved bits of its format cleared (R64, R65). -/
def Obligations.EncodeOfDecode : Prop :=
  ∀ (w : Word) (i : Instr), decode w = .command i →
    i.wellFormed = true ∧ encode i = w &&& ~~~ i.reservedMask

/-- R63: OP = w[3:0] selects the command; 0x0 and 0xC to 0xF are the reserved opcodes. -/
def Obligations.DecodeIsTotalByOpcode : Prop :=
  ∀ w : Word,
    (∃ i, decode w = .command i ∧ w.toNat % 16 = i.opcode.toNat ∧ 0x1 ≤ w.toNat % 16 ∧ w.toNat % 16 ≤ 0xB) ∨
    (∃ op : BitVec 4, decode w = .reservedOpcode op ∧ op.toNat = w.toNat % 16 ∧
      (w.toNat % 16 = 0x0 ∨ 0xC ≤ w.toNat % 16))

/-- R65: a reserved opcode gives UnsupportedError, emits no event and changes no state other than RESULT; a command
behaves the same whatever its reserved bits hold, and the encoder writes them as 0; PSTATE 1 and 3 and every
(OPTION, VALUE) but (0x01, 0x0001) are legal encodings of UnsupportedError; BUFV = 0 or LEN = 0 is a legal encoding of
ParameterError. -/
def Obligations.ReservedEncodings : Prop :=
  (∀ i : Instr, encode i &&& i.reservedMask = 0) ∧
  ∀ (w : Word) (s : State),
    ((w.toNat % 16 = 0x0 ∨ 0xC ≤ w.toNat % 16) → cmdWrite w s = .next { s with result := 3, seq := none }) ∧
    (∀ (v : Word) (i : Instr), decode w = .command i →
      v &&& ~~~ i.reservedMask = w &&& ~~~ i.reservedMask → cmdWrite v s = cmdWrite w s) ∧
    (w.toNat % 16 = 0x3 → w.toNat / 16 % 4 = 1 ∨ w.toNat / 16 % 4 = 3 →
      cmdWrite w s = .next { s with result := 3, seq := none }) ∧
    (w.toNat % 16 = 0x6 → ¬ (w.toNat / 256 % 256 = 0x01 ∧ w.toNat / 65536 = 0x0001) →
      cmdWrite w s = .next { s with result := 3, seq := none }) ∧
    (w.toNat % 16 = 0x4 ∨ w.toNat % 16 = 0x5 → w.toNat / 4096 % 2 = 0 ∨ w.toNat / 65536 = 0 →
      cmdWrite w s = .next { s with result := 1, seq := none })

/-- R69: the command word of each line, and the word of format T by its fields. -/
def Obligations.EncodingTable : Prop :=
  commandWord "INIT" = some 0x00000001 ∧ commandWord "UNINIT" = some 0x00000002 ∧
  commandWord "POWER OFF" = some 0x00000003 ∧ commandWord "POWER LOW" = some 0x00000013 ∧
  commandWord "POWER FULL" = some 0x00000023 ∧ commandWord "POWER 3" = some 0x00000033 ∧
  commandWord "CONTROL BUS_SPEED, STANDARD" = some 0x00010106 ∧ commandWord "GET_STATUS" = some 0x00000007 ∧
  commandWord "GET_VERSION" = some 0x00000008 ∧ commandWord "GET_CAPABILITIES" = some 0x00000009 ∧
  commandWord "SLAVE_TX" = some 0x0000000A ∧ commandWord "SLAVE_RX" = some 0x0000000B ∧
  commandWord "WRITE 0x4A, 2" = some 0x00021944 ∧ commandWord "WRITE 0x41, 1, PEND" = some 0x00011834 ∧
  commandWord "READ 0x41, 1" = some 0x00011825 ∧ commandWord "READ 0x41, 5" = some 0x00051825 ∧
  ∀ (addr : BitVec 7) (len : Nat) (pend bufv : Bool), len < 65536 →
    (encode (.write addr len pend bufv)).toNat =
      len * 65536 + bufv.toNat * 4096 + addr.toNat * 32 + pend.toNat * 16 + 0x4 ∧
    (encode (.read addr len pend bufv)).toNat =
      len * 65536 + bufv.toNat * 4096 + addr.toNat * 32 + pend.toNat * 16 + 0x5

/-- Words of every family, written out from the fields of R64, decode to the commands they stand for. -/
def Obligations.WordsDecode : Prop :=
  decode 0xFFFFFFF1 = .command .init ∧ decode 0x00000002 = .command .uninit ∧
  decode 0xFFFFFFE3 = .command (.power .full) ∧ decode 0x00000013 = .command (.power .low) ∧
  decode 0x00023944 = .command (.write 0x4A 2 false true) ∧
  decode 0xFFFF0FE4 = .command (.write 0x7F 65535 false false) ∧
  decode 0x0001FFF5 = .command (.read 0x7F 1 true true) ∧
  decode 0x000101F6 = .command (.control 0x01 0x0001) ∧
  decode 0xFFFFFFF7 = .command .getStatus ∧ decode 0x00000008 = .command .getVersion ∧
  decode 0x00000009 = .command .getCapabilities ∧ decode 0xFFFFFFFA = .command .slaveTx ∧
  decode 0x0000000B = .command .slaveRx ∧ decode 0x00021940 = .reservedOpcode 0x0

/-- R68: REGWRITE and REGREAD as host accesses, BASE the current BUFBASE. -/
def Obligations.PseudoInstructionsExpand : Prop :=
  ∀ (base : Nat) (addr : BitVec 7) (reg val : Byte) (n : Nat),
    assemble base [.regWrite addr reg val] =
      assemble base [.stb base reg, .stb (base + 1) val, .command (.write addr 2 false true)] ∧
    assemble base [.regRead addr reg n] =
      assemble base [.stb base reg, .command (.write addr 1 true true), .command (.read addr n false true)]

/-! One step (00_scope.md, 10_state.md, 20_memory.md) -/

/-- A step runs the decoded command: with no command in progress and a CMD write of `w` as the next host access, the
step is `exec` of the command `w` decodes to, from the state in which the access is taken and the sequencer position
holds `w` with IDX 0; a reserved opcode ends with UnsupportedError. -/
def Obligations.StepRunsDecodedCommand : Prop :=
  ∀ (s : State) (w : Word) (rest : List HostAccess), s.seq = none → s.host = cmdAccess w :: rest →
    (∀ i, decode w = .command i →
      step s = exec i { s with host := rest, seq := some { word := w, idx := 0, todo := [] } }) ∧
    (∀ op, decode w = .reservedOpcode op → step s = .next { s with host := rest, result := 3 })

/-- No host access is accepted while a command is in progress (R55). -/
def Obligations.NoAccessDuringCommand : Prop :=
  ∀ (s t : State) (p : SeqPos), s.seq = some p → step s = .next t →
    t.host = s.host ∧ t.hostData = s.hostData ∧ t.bufbase = s.bufbase

/-- The block waits when the host has no access left and no command is in progress (the model's choice, log 6). -/
def Obligations.WaitsForTheHost : Prop :=
  ∀ s : State, runEnded s = true → step s = .next s

/-- R13: a command, run one controller step at a time from the state in which it has just started, reaches exactly
the outcome of its CMD write; a ModelFault before its first step is that of the CMD write too. The CMD write as one
step: log 5 (R55); the cut into controller steps: log 8. -/
def Obligations.ControllerStepsRefineCommand : Prop :=
  ∀ (w : Word) (s : State),
    (∀ u, startCommand w s = .ok u → ∃ n, Host.Core.run Sys2Proof.core n u = cmdWrite w s) ∧
    (∀ r, startCommand w s = .error r → cmdWrite w s = .fault r)

/-- While the controller runs a WRITE or READ that passed its checks, the sequencer position holds the command's word
and an IDX of at most LEN (R23), BUSY is 1 at every controller step that emits an event (R35), and no step sets POS
with ACK still 1 (R54). When IDX advances: log 9; the cut into steps: log 8. -/
def Obligations.TransferControllerSteps : Prop :=
  ∀ (w : Word) (addr : BitVec 7) (len : Nat) (pend : Bool) (s u v : State) (n : Nat) (p : SeqPos),
    (decode w = .command (.write addr len pend true) ∨ decode w = .command (.read addr len pend true)) →
    TransferReady len true s → startCommand w s = .ok u →
    Host.Core.run Sys2Proof.core n u = .next v → v.seq = some p →
    p.word = w ∧ p.idx ≤ len ∧
    ∀ v', step v = .next v' →
      (v'.trace ≠ v.trace → v.busy = true) ∧ (v.pos = false → v'.pos = true → v'.ack = false)

/-- While a WRITE or READ runs from a state between host accesses, each controller step leaves PHASE or moves it along
an edge of R33 (R78 to R83), and PHASE becomes START_PENDING at a START event only. The cut into
steps: log 8. -/
def Obligations.PhaseFollowsItsStateMachine : Prop :=
  ∀ (w : Word) (i : Instr) (s u v v' : State) (n : Nat) (p : SeqPos),
    s.Inv → decode w = .command i → isTransfer i = true → startCommand w s = .ok u →
    Host.Core.run Sys2Proof.core n u = .next v → v.seq = some p → step v = .next v' →
    v'.phase = v.phase ∨ (PhaseEdge v.phase v'.phase ∧
      (v'.phase = .startPending → v'.trace = v.trace ++ [.start v.line]))

/-- Every step keeps the invariant between host accesses. -/
def Obligations.StepKeepsInvariant : Prop :=
  ∀ s t : State, s.Inv → step s = .next t → t.Inv

/-- R36: no step removes an event; each only adds to TRACE. -/
def Obligations.TraceOnlyGrows : Prop :=
  ∀ s t : State, step s = .next t → s.trace <+: t.trace

/-- R62: nothing makes a defined element of BUF undefined again. -/
def Obligations.DefinedBytesStayDefined : Prop :=
  ∀ (s t : State) (k : Nat), step s = .next t → Memory.read s.buf k ≠ none → Memory.read t.buf k ≠ none

/-- The parameters are arguments, not state: no step writes them (R40). -/
def Obligations.ParametersNeverChange : Prop :=
  ∀ s t : State, step s = .next t → t.params = s.params

/-! The host's accesses (20_memory.md) -/

/-- R47 and R48: the host is stuck exactly on an access below 0x100 that is not 32 bits wide at a multiple of 4, or
above it not a byte access inside the BUF window. -/
def Obligations.HostStuckOnlyOnOtherAccesses : Prop :=
  ∀ (s : State) (a : HostAccess) (rest : List HostAccess), s.seq = none → s.host = a :: rest →
    ((∃ r, step s = .refused r) ↔
      ¬ ((a.offset.toNat < 0x100 ∧ a.width = .w32 ∧ a.offset.toNat % 4 = 0) ∨
         (0x100 ≤ a.offset.toNat ∧ a.offset.toNat < 0x100 + s.params.bufSize ∧ a.width = .w8)))

/-- R46: what an aligned 32-bit host read returns at each offset, and that it changes nothing else (R52). -/
def Obligations.RegisterReads : Prop :=
  ∀ (s : State) (off : Word) (rest : List HostAccess), s.seq = none →
    s.host = { offset := off, width := .w32, kind := .read } :: rest → off.toNat < 0x100 → off.toNat % 4 = 0 →
    ∃ v : Word, step s = .next { s with host := rest, hostData := s.hostData ++ [.word v] } ∧
      (off = 0x000 → v = 0) ∧
      (off = 0x004 → v.toNat = s.result.toNat % 4) ∧
      (off = 0x008 → v = s.rdata) ∧
      (off = 0x00C → v.toNat = s.bufbase.toNat % 65536) ∧
      (0x010 ≤ off.toNat → v = 0)

/-- R26 and R52: an aligned 32-bit host write stores BUFBASE[15:0]; to RESULT, RDATA and the reserved offsets it is
ignored. -/
def Obligations.RegisterWrites : Prop :=
  ∀ (s : State) (off v : Word) (rest : List HostAccess), s.seq = none →
    s.host = { offset := off, width := .w32, kind := .write v } :: rest → off.toNat < 0x100 → off.toNat % 4 = 0 →
    (off = 0x00C → step s = .next { s with host := rest, bufbase := BitVec.ofNat 32 (v.toNat % 65536) }) ∧
    (off ≠ 0x000 → off ≠ 0x00C → step s = .next { s with host := rest })

/-- A byte the host writes to BUF[k] is what it reads back, and no other element changes (R46, R52). -/
def Obligations.BufferWriteThenRead : Prop :=
  ∀ (s : State) (k : Nat) (v : Word) (rest : List HostAccess), s.seq = none → k < s.params.bufSize →
    s.params.wf = true →
    s.host = { offset := BitVec.ofNat 32 (0x100 + k), width := .w8, kind := .write v } ::
      { offset := BitVec.ofNat 32 (0x100 + k), width := .w8, kind := .read } :: rest →
    ∃ t, step s = .next t ∧
      t = { s with host := t.host, buf := t.buf } ∧
      Memory.read t.buf k = some (BitVec.ofNat 8 (v.toNat % 256)) ∧
      (∀ j, j ≠ k → Memory.read t.buf j = Memory.read s.buf j) ∧
      step t = .next { t with
        host := rest, hostData := t.hostData ++ [.byte (BitVec.ofNat 8 (v.toNat % 256))] }

/-- A host read of BUF[k] gives its byte and changes nothing else, or is ModelFault(UndefinedBufferByte) when the
element is undefined (R62). -/
def Obligations.BufferRead : Prop :=
  ∀ (s : State) (k : Nat) (rest : List HostAccess), s.seq = none → k < s.params.bufSize → s.params.wf = true →
    s.host = { offset := BitVec.ofNat 32 (0x100 + k), width := .w8, kind := .read } :: rest →
    (∀ b, Memory.read s.buf k = some b →
      step s = .next { s with host := rest, hostData := s.hostData ++ [.byte b] }) ∧
    (Memory.read s.buf k = none → step s = .fault .undefinedBufferByte)

/-! INIT, UNINIT, POWER, the stubs (40_bus_initializer.md, 43_power_lifecycle.md) -/

/-- R70: INIT, whole, and its command word. -/
def Obligations.InitEffect : Prop :=
  encode .init = 0x00000001 ∧ ∀ s : State, exec .init s = .next { s with
    trace := s.trace ++ [.pinsCfg, .periphReset, .clkCfg] ++ (if s.params.initEnables then [.enable] else [])
    ack := false, pos := false, enabled := s.params.initEnables
    cfg := some { pins := s.params.pinMap, clk := s.params.clkCfg, rate := .standard }
    initialized := true, phase := .idle, line := .released, busy := false, dir := .write
    result := 0, seq := none }

/-- R71: two INITs in a row leave every state element other than TRACE as one INIT leaves it, and the configuration is
fixed: PIN_MAP, CLK_CFG, the standard rate. -/
def Obligations.InitIdempotent : Prop :=
  ∀ s : State, ∃ t u, exec .init s = .next t ∧ exec .init t = .next u ∧ u = { t with trace := u.trace } ∧
    t.cfg = some { pins := s.params.pinMap, clk := s.params.clkCfg, rate := .standard }

/-- R94: UNINIT, whole, and its command word. -/
def Obligations.UninitEffect : Prop :=
  encode .uninit = 0x00000002 ∧ ∀ s : State, exec .uninit s = .next { s with
    trace := s.trace ++ [.disable], enabled := false, initialized := false, cfg := none
    ack := false, pos := false, phase := .idle, line := .released, result := 0, seq := none }

/-- R93: POWER in each of its four states, and its command words. -/
def Obligations.PowerEffect : Prop :=
  encode (.power .off) = 0x00000003 ∧ encode (.power .low) = 0x00000013 ∧ encode (.power .full) = 0x00000023 ∧
  encode (.power .unnamed) = 0x00000033 ∧
  ∀ s : State,
    exec (.power .full) s = .next { s with
      trace := s.trace ++ [.enable], enabled := true, result := 0, seq := none } ∧
    exec (.power .off) s = .next { s with
      trace := s.trace ++ [.disable], enabled := false, line := .released, result := 0, seq := none } ∧
    exec (.power .low) s = .next { s with result := 3, seq := none } ∧
    exec (.power .unnamed) s = .next { s with result := 3, seq := none }

/-- R95 and R96: the slave-mode stubs, and their command words. -/
def Obligations.SlaveStubsUnsupported : Prop :=
  encode .slaveTx = 0x0000000A ∧ encode .slaveRx = 0x0000000B ∧
  ∀ s : State,
    exec .slaveTx s = .next { s with result := 3, seq := none } ∧
    exec .slaveRx s = .next { s with result := 3, seq := none }

/-! CONTROL and the GET commands (44_status_capability.md) -/

/-- R101: CONTROL accepts only (BUS_SPEED, STANDARD). -/
def Obligations.ControlEffect : Prop :=
  encode (.control 0x01 0x0001) = 0x00010106 ∧
  ∀ (option value : Nat) (s : State), exec (.control option value) s =
    .next { s with result := if option = 0x01 ∧ value = 0x0001 then 0 else 3, seq := none }

/-- R98: GET_STATUS: bit 1 of RDATA is DIR, bit 0 is BUSY, the rest 0 (R97); as the first command after reset it gives
0, after a READ that passed its checks 2, after such a WRITE 0, however they ended. -/
def Obligations.GetStatusEffect : Prop :=
  encode .getStatus = 0x00000007 ∧
  (∀ s : State, exec .getStatus s = .next { s with
    rdata := BitVec.ofNat 32 ((if s.dir = .read then 2 else 0) + (if s.busy then 1 else 0)), result := 0
    seq := none }) ∧
  (∃ u, exec .getStatus State.reset = .next u ∧ u.rdata = 0x00000000) ∧
  ∀ (addr : BitVec 7) (len : Nat) (pend bufv : Bool) (s t : State), TransferReady len bufv s →
    (exec (.read addr len pend bufv) s = .next t → ∃ u, exec .getStatus t = .next u ∧ u.rdata = 0x00000002) ∧
    (exec (.write addr len pend bufv) s = .next t → ∃ u, exec .getStatus t = .next u ∧ u.rdata = 0x00000000)

/-- R99: GET_VERSION. -/
def Obligations.GetVersionEffect : Prop :=
  encode .getVersion = 0x00000008 ∧
  ∀ s : State, exec .getVersion s = .next { s with rdata := s.params.versionWord, result := 0, seq := none }

/-- R100: GET_CAPABILITIES. -/
def Obligations.GetCapabilitiesEffect : Prop :=
  encode .getCapabilities = 0x00000009 ∧
  ∀ s : State, exec .getCapabilities s = .next { s with rdata := 0x00000000, result := 0, seq := none }

/-- From every state between host accesses, GET_STATUS as a CMD write leaves bit 0 of RDATA 0 (R97). -/
def Obligations.BusyNeverReported : Prop :=
  ∀ (s t : State) (w : Word), s.Inv → decode w = .command .getStatus → cmdWrite w s = .next t →
    t.rdata.getLsbD 0 = false

/-! WRITE and READ: checks and faults (41_transaction_executor.md, 20_memory.md) -/

/-- R73, R74 and R75: a WRITE or READ whose buffer is null-equivalent, whose LEN is 0 or whose range is not inside BUF
ends with ParameterError, writes no state other than RESULT and emits no event. -/
def Obligations.TransferParameterError : Prop :=
  ∀ (addr : BitVec 7) (len : Nat) (pend bufv : Bool) (s : State),
    (bufv = false ∨ len = 0 ∨ s.bufbase.toNat % 65536 + len > s.params.bufSize) →
    exec (.write addr len pend bufv) s = .next { s with result := 1, seq := none } ∧
    exec (.read addr len pend bufv) s = .next { s with result := 1, seq := none }

/-- Only a WRITE that passes its checks over a range that holds an undefined byte raises a ModelFault, and it is
UndefinedBufferByte; no command is refused (R62, R105, R115). -/
def Obligations.OnlyUndefinedWriteFaults : Prop :=
  ∀ (i : Instr) (s : State),
    (∀ r, exec i s ≠ .refused r) ∧
    (∀ r, exec i s = .fault r ↔ r = .undefinedBufferByte ∧
      ∃ addr len pend, i = .write addr len pend true ∧ TransferReady len true s ∧
        ∃ k, k < len ∧ Memory.read s.buf (s.base + k) = none)

/-! WRITE -/

/-- A WRITE of `data` when every wait's flag is set at once: the whole next state. Its TB: log 17. -/
def Obligations.WriteImmediate : Prop :=
  ∀ (addr : BitVec 7) (data : List Byte) (pend : Bool) (s : State),
    TransferReady data.length true s → BufHolds s.base data s → 1 ≤ s.params.timeoutLimit →
    EnvImmediate (data.length + 3) s →
    exec (.write addr data.length pend true) s = .next { s with
      trace := s.trace ++ writeEvents s.line addr data (!pend)
      dir := .write, busy := false, phase := .idle, line := if pend then .held else .released
      tb := s.params.timeoutLimit, env := s.env.afterPolls (data.length + 3), result := 0, seq := none }

/-- R80: WRITE, whole, for every environment: the checks, the ModelFault, and the procedure with each wait bounded by
the watchdog, up to the timeout exit or to its end. TB after it is left open (R38: it has no meaning between waits). -/
def Obligations.WriteFollowsItsProcedure : Prop :=
  ∀ (addr : BitVec 7) (len : Nat) (pend bufv : Bool) (s : State),
    (¬ TransferReady len bufv s → exec (.write addr len pend bufv) s = .next { s with result := 1, seq := none }) ∧
    (TransferReady len bufv s → (∃ k, k < len ∧ Memory.read s.buf (s.base + k) = none) →
      exec (.write addr len pend bufv) s = .fault .undefinedBufferByte) ∧
    (TransferReady len bufv s → ∀ data : List Byte, data.length = len → BufHolds s.base data s →
      ∃ (t : State) (g : List Event) (ok : Bool), exec (.write addr len pend bufv) s = .next t ∧
        Follows s.params.timeoutLimit (writeEvents s.line addr data (!pend)) g ok ∧ AnsweredBy s.env g ∧
        t = { s with
          trace := s.trace ++ g
          dir := .write, busy := false
          phase := if ok then .idle else .timedOut
          line := if ok then (if pend then .held else .released) else .unknown
          tb := t.tb, env := s.env.afterPolls (pollCount g), result := if ok then 0 else 2, seq := none })

/-- R84: every event of a WRITE that times out stays in TRACE; a timeout at the wait for TXE before data byte k (from 1,
so k-1 waits for TXE have succeeded) leaves exactly k-1 data-byte TX events after the address byte; a timeout at BTF
leaves all LEN. The bytes sent are those of BUF in order (R50). -/
def Obligations.WriteTimeoutLeavesBytesSent : Prop :=
  ∀ (addr : BitVec 7) (data : List Byte) (pend : Bool) (s t : State),
    TransferReady data.length true s → BufHolds s.base data s →
    exec (.write addr data.length pend true) s = .next t → t.result = 2 →
    ∃ g, t.trace = s.trace ++ g ∧
      (lastPolled g = some .txe → ∃ k, 1 ≤ k ∧ k ≤ data.length ∧ g.count (.poll .txe true) = k - 1 ∧
        g.filterMap Event.loaded = BitVec.ofNat 8 (addr.toNat * 2) :: data.take (k - 1)) ∧
      (lastPolled g = some .btf → g.filterMap Event.loaded = BitVec.ofNat 8 (addr.toNat * 2) :: data)

/-! READ (42_read_sequencer.md) -/

/-- A READ with LEN = 1 when every flag is set at once: the whole next state (R88). Its TB: log 17. -/
def Obligations.ReadOneImmediate : Prop :=
  ∀ (addr : BitVec 7) (pend : Bool) (x : Byte) (s : State),
    TransferReady 1 true s → 1 ≤ s.params.timeoutLimit → EnvImmediate 3 s → EnvData [x] s →
    exec (.read addr 1 pend true) s = .next { s with
      trace := s.trace ++ readEvents s.line addr [x] (assertsStop s.params pend)
      buf := Memory.write s.buf s.base x
      dir := .read, busy := false, ack := false, phase := .idle
      line := if assertsStop s.params pend then .released else .held
      tb := s.params.timeoutLimit, env := (s.env.afterPolls 3).afterRxs 1, result := 0, seq := none }

/-- A READ with LEN = 2 when every flag is set at once: the whole next state (R89). Its TB: log 17. -/
def Obligations.ReadTwoImmediate : Prop :=
  ∀ (addr : BitVec 7) (pend : Bool) (x y : Byte) (s : State),
    TransferReady 2 true s → 1 ≤ s.params.timeoutLimit → EnvImmediate 3 s → EnvData [x, y] s →
    exec (.read addr 2 pend true) s = .next { s with
      trace := s.trace ++ readEvents s.line addr [x, y] (assertsStop s.params pend)
      buf := Memory.write (Memory.write s.buf s.base x) (s.base + 1) y
      dir := .read, busy := false, ack := false, pos := false, phase := .idle
      line := if assertsStop s.params pend then .released else .held
      tb := s.params.timeoutLimit, env := (s.env.afterPolls 3).afterRxs 2, result := 0, seq := none }

/-- A READ with LEN >= 3 when every flag is set at once: the whole next state (R90). Its TB: log 17. -/
def Obligations.ReadManyImmediate : Prop :=
  ∀ (addr : BitVec 7) (pend : Bool) (xs : List Byte) (s : State), 3 ≤ xs.length →
    TransferReady xs.length true s → 1 ≤ s.params.timeoutLimit → EnvImmediate (xs.length + 1) s → EnvData xs s →
    exec (.read addr xs.length pend true) s = .next { s with
      trace := s.trace ++ readEvents s.line addr xs (assertsStop s.params pend)
      buf := storeBytes s.buf s.base xs
      dir := .read, busy := false, ack := false, phase := .idle
      line := if assertsStop s.params pend then .released else .held
      tb := s.params.timeoutLimit, env := (s.env.afterPolls (xs.length + 1)).afterRxs xs.length
      result := 0, seq := none }

/-- R86, R88, R89, R90 and R91: READ, whole, for every environment: the checks, and the procedure chosen by LEN with
each wait bounded by the watchdog, up to the timeout exit or to its end; the bytes received, and only they, are in BUF,
and ACK and POS are as the last event left them. TB after it is left open (R38). -/
def Obligations.ReadFollowsItsProcedure : Prop :=
  ∀ (addr : BitVec 7) (len : Nat) (pend bufv : Bool) (s : State),
    (¬ TransferReady len bufv s → exec (.read addr len pend bufv) s = .next { s with result := 1, seq := none }) ∧
    (TransferReady len bufv s →
      ∃ (t : State) (g : List Event) (ok : Bool), exec (.read addr len pend bufv) s = .next t ∧
        Follows s.params.timeoutLimit
          (readEvents s.line addr (nextBytes s.env len) (assertsStop s.params pend)) g ok ∧
        AnsweredBy s.env g ∧
        t = { s with
          trace := s.trace ++ g
          buf := storeBytes s.buf s.base (g.filterMap Event.received)
          dir := .read, busy := false
          ack := ackAfterEvents s.ack g, pos := posAfterEvents s.pos g
          phase := if ok then .idle else .timedOut
          line := if ok then (if assertsStop s.params pend then .released else .held) else .unknown
          tb := t.tb
          env := (s.env.afterPolls (pollCount g)).afterRxs (g.filterMap Event.received).length
          result := if ok then 0 else 2, seq := none })

/-- R45: after a READ that passed its checks, however it ends, element BASE + i holds the i-th byte received, and every
other element of BUF is as it was. -/
def Obligations.ReadStoresBytesInOrder : Prop :=
  ∀ (addr : BitVec 7) (len : Nat) (pend : Bool) (s t : State), TransferReady len true s →
    exec (.read addr len pend true) s = .next t →
    ∃ g, t.trace = s.trace ++ g ∧ (g.filterMap Event.received).length ≤ len ∧
      (t.result = 0 → (g.filterMap Event.received).length = len) ∧
      ∀ k, Memory.read t.buf k =
        if s.base ≤ k ∧ k < s.base + (g.filterMap Event.received).length
        then (g.filterMap Event.received)[k - s.base]? else Memory.read s.buf k

/-- R87: in every READ the event that sets the acknowledge controls for the length comes after the ADDR wait succeeds
and before CLR_ADDR, and no byte is read before CLR_ADDR. -/
def Obligations.AckControlsBeforeClear : Prop :=
  ∀ (addr : BitVec 7) (len : Nat) (pend : Bool) (s t : State), TransferReady len true s →
    exec (.read addr len pend true) s = .next t →
    ∃ g, t.trace = s.trace ++ g ∧
      (∀ before after, g = before ++ .clrAddr :: after →
        ∃ p q, before = p ++ (if len = 1 then Event.ackOff else if len = 2 then .posOnAckOff else .ackOn) :: q ∧
          Event.poll .addr true ∈ p) ∧
      (∀ before after b, g = before ++ .rx b :: after → Event.clrAddr ∈ before)

/-- R123: the ACK and POS a READ leaves when it times out: by the wait that expired. -/
def Obligations.TimeoutResidue : Prop :=
  ∀ (addr : BitVec 7) (len : Nat) (pend : Bool) (s t : State), TransferReady len true s →
    1 ≤ s.params.timeoutLimit → exec (.read addr len pend true) s = .next t → t.result = 2 →
    ∃ g, t.trace = s.trace ++ g ∧
      (lastPolled g = some .sb ∨ lastPolled g = some .addr → t.ack = s.ack ∧ t.pos = s.pos) ∧
      (len = 1 → lastPolled g = some .rxne → t.ack = false ∧ t.pos = s.pos) ∧
      (len = 2 → lastPolled g = some .btf → t.ack = false ∧ t.pos = true) ∧
      (3 ≤ len → lastPolled g = some .btf → t.ack = true ∧ t.pos = s.pos) ∧
      (3 ≤ len → Event.ackOff ∉ g → Event.ackOn ∈ g → t.ack = true ∧ t.pos = s.pos) ∧
      (3 ≤ len → Event.ackOff ∈ g → t.ack = false ∧ t.pos = s.pos) ∧
      (s.pos = true → t.pos = true)

/-! The watchdog (41_transaction_executor.md) -/

/-- A transfer whose START is never acknowledged ends with TimeoutError after exactly TIMEOUT_LIMIT polls: no STOP, no
further event, LINE Unknown, PHASE TIMED_OUT (R77, R83). Its TB: log 17. -/
def Obligations.StartNeverAcknowledged : Prop :=
  ∀ (addr : BitVec 7) (data : List Byte) (pend : Bool) (s : State),
    TransferReady data.length true s → EnvSilent s.params.timeoutLimit s →
    (BufHolds s.base data s →
      exec (.write addr data.length pend true) s = .next { s with
        trace := s.trace ++ .start s.line :: List.replicate s.params.timeoutLimit (.poll .sb false)
        dir := .write, busy := false, phase := .timedOut, line := .unknown, tb := 0
        env := s.env.afterPolls s.params.timeoutLimit, result := 2, seq := none }) ∧
    exec (.read addr data.length pend true) s = .next { s with
      trace := s.trace ++ .start s.line :: List.replicate s.params.timeoutLimit (.poll .sb false)
      dir := .read, busy := false, phase := .timedOut, line := .unknown, tb := 0
      env := s.env.afterPolls s.params.timeoutLimit, result := 2, seq := none }

/-- One command makes at most (LEN + 3) × TIMEOUT_LIMIT polls, and none unless it is a WRITE or READ (R13, R77). -/
def Obligations.PollsAreBounded : Prop :=
  ∀ (i : Instr) (s t : State), exec i s = .next t →
    ∃ g, t.trace = s.trace ++ g ∧
      match i with
      | .write _ len _ _ => pollCount g ≤ (len + 3) * s.params.timeoutLimit
      | .read _ len _ _ => pollCount g ≤ (len + 3) * s.params.timeoutLimit
      | _ => pollCount g = 0

/-- When every wait's flag answers true within k <= TIMEOUT_LIMIT polls (ENV_RESPONSIVE(k)), a WRITE or READ that
passes its checks ends Ok (R16, D23). -/
def Obligations.ResponsiveTransfersEndOk : Prop :=
  ∀ (addr : BitVec 7) (len k : Nat) (pend : Bool) (s : State),
    TransferReady len true s → 1 ≤ k → k ≤ s.params.timeoutLimit → EnvResponsive k (len + 3) s →
    (Memory.definedFrom s.buf s.base len = true →
      ∃ t, exec (.write addr len pend true) s = .next t ∧ t.result = 0) ∧
    ∃ t, exec (.read addr len pend true) s = .next t ∧ t.result = 0

/-! The repeated-START arbiter and chains (41_transaction_executor.md) -/

/-- R78: a transfer that passes its checks emits exactly one START, its first event, which records LINE as it was. -/
def Obligations.StartRecordsLine : Prop :=
  ∀ (i : Instr) (s t : State), exec i s = .next t →
    ∃ g, t.trace = s.trace ++ g ∧
      ((∃ addr len pend, TransferReady len true s ∧ (i = .write addr len pend true ∨ i = .read addr len pend true)) →
        ∃ rest, g = .start s.line :: rest ∧ ∀ l, Event.start l ∉ rest) ∧
      (isTransfer i = false → ∀ l, Event.start l ∉ g)

/-- A WRITE or READ asserts STOP once, when it ends Ok and does not suppress it; with STOP suppressed it asserts none,
however it ends; no other command asserts one (R80, R85, R91). -/
def Obligations.StopAssertions : Prop :=
  ∀ (i : Instr) (s t : State), exec i s = .next t →
    match i with
    | .write _ _ pend _ =>
      (t.result = 0 → stopCount t.trace = stopCount s.trace + if pend then 0 else 1) ∧
      (t.result ≠ 0 → stopCount t.trace = stopCount s.trace)
    | .read _ _ pend _ =>
      (t.result = 0 → stopCount t.trace = stopCount s.trace + if assertsStop s.params pend then 1 else 0) ∧
      (assertsStop s.params pend = false → stopCount t.trace = stopCount s.trace) ∧
      stopCount t.trace ≤ stopCount s.trace + 1
    | _ => stopCount t.trace = stopCount s.trace

/-- R85: what each command that completes does to LINE. -/
def Obligations.LineAfterCommand : Prop :=
  ∀ (i : Instr) (s t : State), exec i s = .next t →
    (t.result = 1 ∨ t.result = 3 → t.line = s.line) ∧
    match i with
    | .init => t.line = .released
    | .uninit => t.line = .released
    | .power .off => t.line = .released
    | .write _ _ pend _ =>
      (t.result = 0 → t.line = if pend then .held else .released) ∧ (t.result = 2 → t.line = .unknown)
    | .read _ _ pend _ =>
      (t.result = 0 → t.line = if assertsStop s.params pend then .released else .held) ∧
      (t.result = 2 → t.line = .unknown)
    | _ => t.line = s.line

/-! Whole-machine rules (10_state.md, 60_exceptions.md) -/

/-- R103: the result codes each command can end with. -/
def Obligations.ResultCodesByCommand : Prop :=
  ∀ (i : Instr) (s t : State), exec i s = .next t →
    match i with
    | .write _ len _ bufv =>
      (¬ TransferReady len bufv s → t.result = 1) ∧ (TransferReady len bufv s → t.result = 0 ∨ t.result = 2)
    | .read _ len _ bufv =>
      (¬ TransferReady len bufv s → t.result = 1) ∧ (TransferReady len bufv s → t.result = 0 ∨ t.result = 2)
    | .power ps => t.result = if ps = .off ∨ ps = .full then 0 else 3
    | .control option value => t.result = if option = 1 ∧ value = 1 then 0 else 3
    | .slaveTx => t.result = 3
    | .slaveRx => t.result = 3
    | _ => t.result = 0

/-- R106: what a failure leaves. ParameterError and UnsupportedError change only RESULT. TimeoutError: PHASE =
TIMED_OUT, LINE = Unknown, BUSY = 0, DIR as the command set it, ACK and POS as the last event left them, BUF holding
the bytes a READ received, TRACE holding every event emitted; everything else as it was. Its TB: log 17. -/
def Obligations.WhatFailuresLeave : Prop :=
  ∀ (i : Instr) (s t : State), exec i s = .next t →
    (t.result = 1 ∨ t.result = 3 → t = { s with result := t.result, seq := none }) ∧
    (t.result = 2 → ∃ g, t = { s with
      result := 2, phase := .timedOut, line := .unknown, busy := false
      dir := match i with
        | .read .. => .read
        | _ => .write
      ack := ackAfterEvents s.ack g, pos := posAfterEvents s.pos g
      buf := storeBytes s.buf s.base (g.filterMap Event.received)
      trace := s.trace ++ g
      env := (s.env.afterPolls (pollCount g)).afterRxs (g.filterMap Event.received).length
      tb := 0, seq := none })

/-- R25: only the three GET commands write RDATA, host writes of it are ignored, and it resets to 0. -/
def Obligations.OnlyGetWritesRdata : Prop :=
  (∀ (i : Instr) (s t : State), exec i s = .next t →
    i ≠ .getStatus → i ≠ .getVersion → i ≠ .getCapabilities → t.rdata = s.rdata) ∧
  (∀ (w : Word) (op : BitVec 4) (s t : State), decode w = .reservedOpcode op → cmdWrite w s = .next t →
    t.rdata = s.rdata) ∧
  (∀ (s : State) (v : Word) (rest : List HostAccess), s.seq = none →
    s.host = { offset := 0x008, width := .w32, kind := .write v } :: rest → step s = .next { s with host := rest }) ∧
  State.reset.rdata = 0x00000000

/-- Which commands may change each state element (R24 to R26, R28 to R30, R32 to R36, R38, R83); RESULT every command
writes, with a code of R102; BUFBASE, the parameters and the host's side no command changes. -/
def Obligations.FrameByCommand : Prop :=
  ∀ (i : Instr) (s t : State), exec i s = .next t →
    t.bufbase = s.bufbase ∧ t.params = s.params ∧ t.host = s.host ∧ t.hostData = s.hostData ∧ t.seq = none ∧
    ((∀ addr len pend bufv, i ≠ .read addr len pend bufv) → t.buf = s.buf) ∧
    (i ≠ .init → i ≠ .uninit → t.initialized = s.initialized ∧ t.cfg = s.cfg) ∧
    (i ≠ .init → i ≠ .uninit → (∀ ps, i ≠ .power ps) → t.enabled = s.enabled) ∧
    (i ≠ .init → i ≠ .uninit → (∀ addr len pend bufv, i ≠ .read addr len pend bufv) →
      t.ack = s.ack ∧ t.pos = s.pos) ∧
    ((∀ addr pend bufv, i ≠ .read addr 2 pend bufv) → i ≠ .init → i ≠ .uninit → t.pos = s.pos) ∧
    (i ≠ .init → isTransfer i = false → t.dir = s.dir ∧ t.busy = s.busy) ∧
    (isTransfer i = false → t.tb = s.tb ∧ t.env = s.env) ∧
    (i ≠ .init → i ≠ .uninit → ¬ beginsTransfer i s → t.phase = s.phase) ∧
    (i ≠ .init → i ≠ .uninit → i ≠ .power .off → ¬ beginsTransfer i s → t.line = s.line) ∧
    (i ≠ .getStatus → i ≠ .getVersion → i ≠ .getCapabilities → t.rdata = s.rdata) ∧
    (i ≠ .init → i ≠ .uninit → i ≠ .power .off → i ≠ .power .full → ¬ beginsTransfer i s → t.trace = s.trace) ∧
    t.result.toNat < 4

/-- R29, R32 and R33: no command reads INITIALIZED, CFG, ENABLED, PHASE, ACK or POS to decide its behaviour: from two
states that agree but for them, every command ends alike, in states that agree but for them. -/
def Obligations.ControlStateNeverRead : Prop :=
  ∀ (i : Instr) (s t : State), agreeButControl s t → outcomesAgree (exec i s) (exec i t)
end

