-- ==== Sys2Proof/Laws/Encoding.lean ====
section
/-! SUPPORT. Sys2Proof/Laws/Encoding.lean: the fields of a command word and the encoded words as numbers (R64). -/

namespace Sys2Proof

theorem opField_toNat (w : Word) : (opField w).toNat = w.toNat % 16 := by
  simp [opField, BitVec.extractLsb'_toNat]

theorem pstateField_toNat (w : Word) : (pstateField w).toNat = w.toNat / 16 % 4 := by
  simp [pstateField, BitVec.extractLsb'_toNat, Nat.shiftRight_eq_div_pow]

theorem addrField_toNat (w : Word) : (addrField w).toNat = w.toNat / 32 % 128 := by
  simp [addrField, BitVec.extractLsb'_toNat, Nat.shiftRight_eq_div_pow]

theorem highField_toNat (w : Word) : (highField w).toNat = w.toNat / 65536 := by
  have := w.isLt
  simp [highField, BitVec.extractLsb'_toNat, Nat.shiftRight_eq_div_pow]
  omega

theorem optionField_toNat (w : Word) : (optionField w).toNat = w.toNat / 256 % 256 := by
  simp [optionField, BitVec.extractLsb'_toNat, Nat.shiftRight_eq_div_pow]

theorem pendField_toNat (w : Word) : (pendField w).toNat = w.toNat / 16 % 2 := by
  have h : pendField w = decide (w.toNat / 16 % 2 = 1) := by
    simp [pendField, BitVec.getLsbD, Nat.testBit_eq_decide_div_mod_eq]
  rw [h]
  rcases Nat.mod_two_eq_zero_or_one (w.toNat / 16) with h0 | h0 <;> simp [h0]

theorem bufvField_toNat (w : Word) : (bufvField w).toNat = w.toNat / 4096 % 2 := by
  have h : bufvField w = decide (w.toNat / 4096 % 2 = 1) := by
    simp [bufvField, BitVec.getLsbD, Nat.testBit_eq_decide_div_mod_eq]
  rw [h]
  rcases Nat.mod_two_eq_zero_or_one (w.toNat / 4096) with h0 | h0 <;> simp [h0]

theorem encodeN_toNat (op : BitVec 4) : (encodeN op).toNat = op.toNat := by
  have h := BitVec.toNat_append (0#28) op
  rw [← Nat.shiftLeft_add_eq_or_of_lt op.isLt, Nat.shiftLeft_eq] at h
  unfold encodeN
  simpa using h

theorem encodeP_toNat (op : BitVec 4) (ps : BitVec 2) : (encodeP op ps).toNat = ps.toNat * 16 + op.toNat := by
  have h1 := BitVec.toNat_append ps op
  have h2 := BitVec.toNat_append (0#26) (ps ++ op)
  rw [← Nat.shiftLeft_add_eq_or_of_lt (by exact BitVec.isLt _), Nat.shiftLeft_eq] at h1 h2
  unfold encodeP
  rw [h2, h1]
  simp

theorem encodeC_toNat (op : BitVec 4) (o : BitVec 8) (v : BitVec 16) :
    (encodeC op o v).toNat = v.toNat * 65536 + o.toNat * 256 + op.toNat := by
  have h1 := BitVec.toNat_append (0#4) op
  have h2 := BitVec.toNat_append o (0#4 ++ op)
  have h3 := BitVec.toNat_append v (o ++ (0#4 ++ op))
  rw [← Nat.shiftLeft_add_eq_or_of_lt (by exact BitVec.isLt _), Nat.shiftLeft_eq] at h1 h2 h3
  unfold encodeC
  rw [h3, h2, h1]
  simp
  omega

theorem encodeT_toNat (op : BitVec 4) (a : BitVec 7) (len : BitVec 16) (pend bufv : Bool) :
    (encodeT op a len pend bufv).toNat =
      len.toNat * 65536 + bufv.toNat * 4096 + a.toNat * 32 + pend.toNat * 16 + op.toNat := by
  have h1 := BitVec.toNat_append (BitVec.ofBool pend) op
  have h2 := BitVec.toNat_append a (BitVec.ofBool pend ++ op)
  have h3 := BitVec.toNat_append (BitVec.ofBool bufv) (a ++ (BitVec.ofBool pend ++ op))
  have h4 := BitVec.toNat_append (0#3) (BitVec.ofBool bufv ++ (a ++ (BitVec.ofBool pend ++ op)))
  have h5 := BitVec.toNat_append len (0#3 ++ (BitVec.ofBool bufv ++ (a ++ (BitVec.ofBool pend ++ op))))
  rw [← Nat.shiftLeft_add_eq_or_of_lt (by exact BitVec.isLt _), Nat.shiftLeft_eq] at h1 h2 h3 h4 h5
  unfold encodeT
  rw [h5, h4, h3, h2, h1]
  simp
  omega

end Sys2Proof
end

