-- ==== Sys2Proof/Laws/Env.lean ====
section
/-! SUPPORT. Sys2Proof/Laws/Env.lean: the laws of the environment oracle: answers come in order. -/

namespace Sys2Proof.Machine

@[simp] theorem Env.afterPolls_zero (e : Env) : e.afterPolls 0 = e := by simp [Env.afterPolls]

@[simp] theorem Env.afterRxs_zero (e : Env) : e.afterRxs 0 = e := by simp [Env.afterRxs]

@[simp] theorem Env.afterPolls_afterPolls (e : Env) (m n : Nat) :
    (e.afterPolls m).afterPolls n = e.afterPolls (m + n) := by
  simp only [Env.afterPolls, List.drop_drop, List.length_drop, Env.mk.injEq, true_and, and_true]
  omega

@[simp] theorem Env.afterRxs_afterRxs (e : Env) (m n : Nat) :
    (e.afterRxs m).afterRxs n = e.afterRxs (m + n) := by
  simp only [Env.afterRxs, List.drop_drop, List.length_drop, Env.mk.injEq, true_and]
  omega

@[simp] theorem Env.pollAt_afterPolls (e : Env) (m n : Nat) : (e.afterPolls m).pollAt n = e.pollAt (m + n) := by
  simp only [Env.pollAt, Env.afterPolls, List.getElem?_drop, List.length_drop]
  split
  · rfl
  · next h =>
    have := List.getElem?_eq_none_iff.1 h
    congr 1
    omega

@[simp] theorem Env.rxAt_afterRxs (e : Env) (m n : Nat) : (e.afterRxs m).rxAt n = e.rxAt (m + n) := by
  simp only [Env.rxAt, Env.afterRxs, List.getElem?_drop, List.length_drop]
  split
  · rfl
  · next h =>
    have := List.getElem?_eq_none_iff.1 h
    congr 1
    omega

/-- Polls and data reads draw from streams of their own. -/
@[simp] theorem Env.pollAt_afterRxs (e : Env) (m n : Nat) : (e.afterRxs m).pollAt n = e.pollAt n := rfl

@[simp] theorem Env.rxAt_afterPolls (e : Env) (m n : Nat) : (e.afterPolls m).rxAt n = e.rxAt n := rfl

theorem Env.afterPolls_afterRxs (e : Env) (m n : Nat) :
    (e.afterRxs m).afterPolls n = (e.afterPolls n).afterRxs m := rfl

/-- An environment whose listed answers begin with `vs` gives them first. -/
theorem Env.pollAt_listed {e : Env} {vs : List Bool} (h : e.polls = vs) {n : Nat} (hn : n < vs.length) :
    e.pollAt n = vs[n] := by
  subst h
  simp [Env.pollAt, hn]

end Sys2Proof.Machine
end

