-- ==== Sys2Proof/Laws/Memory.lean ====
section
/-! SUPPORT. Sys2Proof/Laws/Memory.lean: the laws of BUF: read after write, the canonical form, definedness. -/

namespace Sys2Proof.Machine

/-- The memory at reset is in canonical form. -/
theorem Memory.reset_wf : Memory.wf State.reset.buf := List.Pairwise.nil

@[simp] theorem Memory.read_nil (k : Nat) : Memory.read [] k = none := rfl

theorem Memory.read_cons (a : Nat) (b : Byte) (m : Memory) (k : Nat) :
    Memory.read ((a, b) :: m) k = if a = k then some b else Memory.read m k := rfl

theorem Memory.read_eq_none_of_lt {m : Memory} {k : Nat} (h : ∀ c ∈ m, k < c.1) : Memory.read m k = none := by
  induction m with
  | nil => rfl
  | cons c m ih =>
    obtain ⟨a, b⟩ := c
    have ha : k < a := h (a, b) (by simp)
    rw [Memory.read_cons, if_neg (by omega)]
    exact ih (fun c hc => h c (List.mem_cons_of_mem _ hc))

/-- Reading the element just written gives the byte written. -/
@[simp] theorem Memory.read_write_same (m : Memory) (k : Nat) (v : Byte) :
    Memory.read (Memory.write m k v) k = some v := by
  induction m with
  | nil => simp [Memory.write, Memory.read]
  | cons c m ih =>
    obtain ⟨a, b⟩ := c
    simp only [Memory.write]
    split
    · simp [Memory.read]
    · split
      · simp [Memory.read]
      · rw [Memory.read_cons, if_neg (by omega), ih]

/-- A write leaves every other element alone. -/
theorem Memory.read_write_other (m : Memory) {k j : Nat} (v : Byte) (h : j ≠ k) :
    Memory.read (Memory.write m k v) j = Memory.read m j := by
  induction m with
  | nil => simp [Memory.write, Memory.read, Ne.symm h]
  | cons c m ih =>
    obtain ⟨a, b⟩ := c
    simp only [Memory.write]
    split
    · rw [Memory.read_cons, if_neg (Ne.symm h)]
    · split
      · next hk => subst hk; simp [Memory.read_cons, Ne.symm h]
      · simp only [Memory.read_cons, ih]

theorem Memory.read_write (m : Memory) (k j : Nat) (v : Byte) :
    Memory.read (Memory.write m k v) j = if j = k then some v else Memory.read m j := by
  split
  · next h => subst h; simp
  · next h => exact Memory.read_write_other m v h

theorem Memory.mem_write {m : Memory} {k : Nat} {v : Byte} {c : Host.Cell} (h : c ∈ Memory.write m k v) :
    c = (k, v) ∨ c ∈ m := by
  induction m with
  | nil => simpa [Memory.write] using h
  | cons d m ih =>
    obtain ⟨a, b⟩ := d
    simp only [Memory.write] at h
    split at h
    · simpa using h
    · split at h
      · rcases List.mem_cons.1 h with h | h
        · exact .inl h
        · exact .inr (List.mem_cons_of_mem _ h)
      · rcases List.mem_cons.1 h with h | h
        · exact .inr (by simp [h])
        · exact (ih h).imp_right (List.mem_cons_of_mem _)

/-- A write keeps the canonical form. -/
theorem Memory.write_wf {m : Memory} (h : Memory.wf m) (k : Nat) (v : Byte) : Memory.wf (Memory.write m k v) := by
  induction m with
  | nil => simp [Memory.write]
  | cons c m ih =>
    obtain ⟨a, b⟩ := c
    obtain ⟨h1, h2⟩ := List.pairwise_cons.1 h
    simp only [Memory.write]
    split
    · next hk =>
      refine List.pairwise_cons.2 ⟨fun c hc => ?_, h⟩
      rcases List.mem_cons.1 hc with rfl | hc
      · exact hk
      · exact Nat.lt_trans hk (h1 c hc)
    · split
      · next hk => subst hk; exact List.pairwise_cons.2 ⟨h1, h2⟩
      · refine List.pairwise_cons.2 ⟨fun c hc => ?_, ih h2⟩
        rcases Memory.mem_write hc with rfl | hc
        · simp only; omega
        · exact h1 c hc

/-- A write below BUF_SIZE keeps every index below it. -/
theorem Memory.write_below {m : Memory} {size : Nat} (h : Memory.below m size) {k : Nat} (hk : k < size) (v : Byte) :
    Memory.below (Memory.write m k v) size := by
  intro c hc
  rcases Memory.mem_write hc with rfl | hc
  · exact hk
  · exact h c hc

/-- Canonical buffers that read alike are the same list. -/
theorem Memory.ext_read {m n : Memory} (hm : Memory.wf m) (hn : Memory.wf n)
    (h : ∀ k, Memory.read m k = Memory.read n k) : m = n := by
  induction m generalizing n with
  | nil =>
    cases n with
    | nil => rfl
    | cons d n =>
      obtain ⟨a, b⟩ := d
      have := h a
      simp [Memory.read_cons] at this
  | cons c m ih =>
    obtain ⟨a, b⟩ := c
    obtain ⟨hm1, hm2⟩ := List.pairwise_cons.1 hm
    cases n with
    | nil =>
      have := h a
      simp [Memory.read_cons] at this
    | cons d n =>
      obtain ⟨a', b'⟩ := d
      obtain ⟨hn1, hn2⟩ := List.pairwise_cons.1 hn
      have haa : a = a' := by
        rcases Nat.lt_trichotomy a a' with hlt | heq | hgt
        · have := h a
          rw [Memory.read_cons, if_pos rfl, Memory.read_eq_none_of_lt] at this
          · cases this
          · intro c hc
            rcases List.mem_cons.1 hc with rfl | hc
            · exact hlt
            · exact Nat.lt_trans hlt (hn1 c hc)
        · exact heq
        · have := h a'
          rw [Memory.read_eq_none_of_lt (m := (a, b) :: m), Memory.read_cons, if_pos rfl] at this
          · cases this
          · intro c hc
            rcases List.mem_cons.1 hc with rfl | hc
            · exact hgt
            · exact Nat.lt_trans hgt (hm1 c hc)
      subst haa
      have hb := h a
      simp [Memory.read_cons] at hb
      subst hb
      congr 1
      refine ih hm2 hn2 (fun k => ?_)
      rcases Nat.lt_trichotomy k a with hlt | rfl | hgt
      · rw [Memory.read_eq_none_of_lt (fun c hc => Nat.lt_trans hlt (hm1 c hc)),
          Memory.read_eq_none_of_lt (fun c hc => Nat.lt_trans hlt (hn1 c hc))]
      · rw [Memory.read_eq_none_of_lt (fun c hc => hm1 c hc), Memory.read_eq_none_of_lt (fun c hc => hn1 c hc)]
      · have := h k
        simpa [Memory.read_cons, Nat.ne_of_lt hgt] using this

/-- `definedFrom` says that every element of the range is defined. -/
theorem Memory.definedFrom_iff (m : Memory) (k n : Nat) :
    Memory.definedFrom m k n = true ↔ ∀ i, i < n → Memory.read m (k + i) ≠ none := by
  induction n generalizing k with
  | zero => simp [Memory.definedFrom]
  | succ n ih =>
    simp only [Memory.definedFrom, Bool.and_eq_true, ih, Option.isSome_iff_ne_none]
    constructor
    · rintro ⟨h0, h⟩ i hi
      cases i with
      | zero => exact h0
      | succ i => have := h i (by omega); rwa [Nat.add_right_comm] at this
    · intro h
      refine ⟨h 0 (by omega), fun i hi => ?_⟩
      have := h (i + 1) (by omega)
      rwa [Nat.add_right_comm]

/-- MemRead gives the byte of a defined element of BUF (R44). -/
theorem memRead_ok {k : Nat} {s : State} {b : Byte} (hk : k < s.params.bufSize)
    (h : Memory.read s.buf k = some b) : memRead k s = .ok b := by
  simp [memRead, hk, h]

/-- MemWrite below BUF_SIZE writes the element (R45). -/
theorem memWrite_ok {k : Nat} {s : State} (b : Byte) (hk : k < s.params.bufSize) :
    memWrite k b s = .ok { s with buf := Memory.write s.buf k b } := by
  simp [memWrite, hk]

/-- What MemWrite does when it answers. -/
theorem memWrite_cases {k : Nat} {b : Byte} {s t : State} (h : memWrite k b s = .ok t) :
    k < s.params.bufSize ∧ t = { s with buf := Memory.write s.buf k b } := by
  simp only [memWrite] at h
  split at h
  · next hk => exact ⟨hk, by cases h; rfl⟩
  · cases h

end Sys2Proof.Machine
end

