-- ==== Sys2Proof/Laws/State.lean ====
section
/-! SUPPORT. Sys2Proof/Laws/State.lean: one lemma per field per named update, so that no proof unfolds a record update. -/

namespace Sys2Proof.Machine

@[simp] theorem emit_result (e : Event) (s : State) : (emit e s).result = s.result := rfl
@[simp] theorem emit_rdata (e : Event) (s : State) : (emit e s).rdata = s.rdata := rfl
@[simp] theorem emit_bufbase (e : Event) (s : State) : (emit e s).bufbase = s.bufbase := rfl
@[simp] theorem emit_buf (e : Event) (s : State) : (emit e s).buf = s.buf := rfl
@[simp] theorem emit_initialized (e : Event) (s : State) : (emit e s).initialized = s.initialized := rfl
@[simp] theorem emit_cfg (e : Event) (s : State) : (emit e s).cfg = s.cfg := rfl
@[simp] theorem emit_ack (e : Event) (s : State) : (emit e s).ack = e.ackAfter s.ack := rfl
@[simp] theorem emit_pos (e : Event) (s : State) : (emit e s).pos = e.posAfter s.pos := rfl
@[simp] theorem emit_enabled (e : Event) (s : State) : (emit e s).enabled = e.enabledAfter s.enabled := rfl
@[simp] theorem emit_phase (e : Event) (s : State) : (emit e s).phase = e.phaseAfter s.phase := rfl
@[simp] theorem emit_line (e : Event) (s : State) : (emit e s).line = s.line := rfl
@[simp] theorem emit_busy (e : Event) (s : State) : (emit e s).busy = s.busy := rfl
@[simp] theorem emit_dir (e : Event) (s : State) : (emit e s).dir = s.dir := rfl
@[simp] theorem emit_tb (e : Event) (s : State) : (emit e s).tb = s.tb := rfl
@[simp] theorem emit_trace (e : Event) (s : State) : (emit e s).trace = s.trace ++ [e] := rfl
@[simp] theorem emit_seq (e : Event) (s : State) : (emit e s).seq = s.seq := rfl
@[simp] theorem emit_params (e : Event) (s : State) : (emit e s).params = s.params := rfl
@[simp] theorem emit_env (e : Event) (s : State) : (emit e s).env = s.env := rfl
@[simp] theorem emit_host (e : Event) (s : State) : (emit e s).host = s.host := rfl
@[simp] theorem emit_hostData (e : Event) (s : State) : (emit e s).hostData = s.hostData := rfl

@[simp] theorem poll_result (f : StatusFlag) (s : State) : (poll f s).result = s.result := rfl
@[simp] theorem poll_rdata (f : StatusFlag) (s : State) : (poll f s).rdata = s.rdata := rfl
@[simp] theorem poll_bufbase (f : StatusFlag) (s : State) : (poll f s).bufbase = s.bufbase := rfl
@[simp] theorem poll_buf (f : StatusFlag) (s : State) : (poll f s).buf = s.buf := rfl
@[simp] theorem poll_initialized (f : StatusFlag) (s : State) : (poll f s).initialized = s.initialized := rfl
@[simp] theorem poll_cfg (f : StatusFlag) (s : State) : (poll f s).cfg = s.cfg := rfl
@[simp] theorem poll_ack (f : StatusFlag) (s : State) : (poll f s).ack = s.ack := rfl
@[simp] theorem poll_pos (f : StatusFlag) (s : State) : (poll f s).pos = s.pos := rfl
@[simp] theorem poll_enabled (f : StatusFlag) (s : State) : (poll f s).enabled = s.enabled := rfl
@[simp] theorem poll_phase (f : StatusFlag) (s : State) : (poll f s).phase = s.phase := rfl
@[simp] theorem poll_line (f : StatusFlag) (s : State) : (poll f s).line = s.line := rfl
@[simp] theorem poll_busy (f : StatusFlag) (s : State) : (poll f s).busy = s.busy := rfl
@[simp] theorem poll_dir (f : StatusFlag) (s : State) : (poll f s).dir = s.dir := rfl
@[simp] theorem poll_tb (f : StatusFlag) (s : State) : (poll f s).tb = s.tb := rfl
@[simp] theorem poll_trace (f : StatusFlag) (s : State) : (poll f s).trace = s.trace ++ [.poll f (s.env.pollAt 0)] := rfl
@[simp] theorem poll_seq (f : StatusFlag) (s : State) : (poll f s).seq = s.seq := rfl
@[simp] theorem poll_params (f : StatusFlag) (s : State) : (poll f s).params = s.params := rfl
@[simp] theorem poll_env (f : StatusFlag) (s : State) : (poll f s).env = s.env.afterPolls 1 := rfl
@[simp] theorem poll_host (f : StatusFlag) (s : State) : (poll f s).host = s.host := rfl
@[simp] theorem poll_hostData (f : StatusFlag) (s : State) : (poll f s).hostData = s.hostData := rfl

@[simp] theorem rx_result (s : State) : (rx s).result = s.result := rfl
@[simp] theorem rx_rdata (s : State) : (rx s).rdata = s.rdata := rfl
@[simp] theorem rx_bufbase (s : State) : (rx s).bufbase = s.bufbase := rfl
@[simp] theorem rx_buf (s : State) : (rx s).buf = s.buf := rfl
@[simp] theorem rx_initialized (s : State) : (rx s).initialized = s.initialized := rfl
@[simp] theorem rx_cfg (s : State) : (rx s).cfg = s.cfg := rfl
@[simp] theorem rx_ack (s : State) : (rx s).ack = s.ack := rfl
@[simp] theorem rx_pos (s : State) : (rx s).pos = s.pos := rfl
@[simp] theorem rx_enabled (s : State) : (rx s).enabled = s.enabled := rfl
@[simp] theorem rx_phase (s : State) : (rx s).phase = s.phase := rfl
@[simp] theorem rx_line (s : State) : (rx s).line = s.line := rfl
@[simp] theorem rx_busy (s : State) : (rx s).busy = s.busy := rfl
@[simp] theorem rx_dir (s : State) : (rx s).dir = s.dir := rfl
@[simp] theorem rx_tb (s : State) : (rx s).tb = s.tb := rfl
@[simp] theorem rx_trace (s : State) : (rx s).trace = s.trace ++ [.rx (s.env.rxAt 0)] := rfl
@[simp] theorem rx_seq (s : State) : (rx s).seq = s.seq := rfl
@[simp] theorem rx_params (s : State) : (rx s).params = s.params := rfl
@[simp] theorem rx_env (s : State) : (rx s).env = s.env.afterRxs 1 := rfl
@[simp] theorem rx_host (s : State) : (rx s).host = s.host := rfl
@[simp] theorem rx_hostData (s : State) : (rx s).hostData = s.hostData := rfl

@[simp] theorem advanceIdx_result (s : State) : (advanceIdx s).result = s.result := rfl
@[simp] theorem advanceIdx_rdata (s : State) : (advanceIdx s).rdata = s.rdata := rfl
@[simp] theorem advanceIdx_bufbase (s : State) : (advanceIdx s).bufbase = s.bufbase := rfl
@[simp] theorem advanceIdx_buf (s : State) : (advanceIdx s).buf = s.buf := rfl
@[simp] theorem advanceIdx_initialized (s : State) : (advanceIdx s).initialized = s.initialized := rfl
@[simp] theorem advanceIdx_cfg (s : State) : (advanceIdx s).cfg = s.cfg := rfl
@[simp] theorem advanceIdx_ack (s : State) : (advanceIdx s).ack = s.ack := rfl
@[simp] theorem advanceIdx_pos (s : State) : (advanceIdx s).pos = s.pos := rfl
@[simp] theorem advanceIdx_enabled (s : State) : (advanceIdx s).enabled = s.enabled := rfl
@[simp] theorem advanceIdx_phase (s : State) : (advanceIdx s).phase = s.phase := rfl
@[simp] theorem advanceIdx_line (s : State) : (advanceIdx s).line = s.line := rfl
@[simp] theorem advanceIdx_busy (s : State) : (advanceIdx s).busy = s.busy := rfl
@[simp] theorem advanceIdx_dir (s : State) : (advanceIdx s).dir = s.dir := rfl
@[simp] theorem advanceIdx_tb (s : State) : (advanceIdx s).tb = s.tb := rfl
@[simp] theorem advanceIdx_trace (s : State) : (advanceIdx s).trace = s.trace := rfl
@[simp] theorem advanceIdx_seq (s : State) : (advanceIdx s).seq = s.seq.map (fun p => { p with idx := p.idx + 1 }) := rfl
@[simp] theorem advanceIdx_params (s : State) : (advanceIdx s).params = s.params := rfl
@[simp] theorem advanceIdx_env (s : State) : (advanceIdx s).env = s.env := rfl
@[simp] theorem advanceIdx_host (s : State) : (advanceIdx s).host = s.host := rfl
@[simp] theorem advanceIdx_hostData (s : State) : (advanceIdx s).hostData = s.hostData := rfl

@[simp] theorem setTodo_result (l : List CtrlOp) (s : State) : (setTodo l s).result = s.result := rfl
@[simp] theorem setTodo_rdata (l : List CtrlOp) (s : State) : (setTodo l s).rdata = s.rdata := rfl
@[simp] theorem setTodo_bufbase (l : List CtrlOp) (s : State) : (setTodo l s).bufbase = s.bufbase := rfl
@[simp] theorem setTodo_buf (l : List CtrlOp) (s : State) : (setTodo l s).buf = s.buf := rfl
@[simp] theorem setTodo_initialized (l : List CtrlOp) (s : State) : (setTodo l s).initialized = s.initialized := rfl
@[simp] theorem setTodo_cfg (l : List CtrlOp) (s : State) : (setTodo l s).cfg = s.cfg := rfl
@[simp] theorem setTodo_ack (l : List CtrlOp) (s : State) : (setTodo l s).ack = s.ack := rfl
@[simp] theorem setTodo_pos (l : List CtrlOp) (s : State) : (setTodo l s).pos = s.pos := rfl
@[simp] theorem setTodo_enabled (l : List CtrlOp) (s : State) : (setTodo l s).enabled = s.enabled := rfl
@[simp] theorem setTodo_phase (l : List CtrlOp) (s : State) : (setTodo l s).phase = s.phase := rfl
@[simp] theorem setTodo_line (l : List CtrlOp) (s : State) : (setTodo l s).line = s.line := rfl
@[simp] theorem setTodo_busy (l : List CtrlOp) (s : State) : (setTodo l s).busy = s.busy := rfl
@[simp] theorem setTodo_dir (l : List CtrlOp) (s : State) : (setTodo l s).dir = s.dir := rfl
@[simp] theorem setTodo_tb (l : List CtrlOp) (s : State) : (setTodo l s).tb = s.tb := rfl
@[simp] theorem setTodo_trace (l : List CtrlOp) (s : State) : (setTodo l s).trace = s.trace := rfl
@[simp] theorem setTodo_seq (l : List CtrlOp) (s : State) : (setTodo l s).seq = s.seq.map (fun p => { p with todo := l }) := rfl
@[simp] theorem setTodo_params (l : List CtrlOp) (s : State) : (setTodo l s).params = s.params := rfl
@[simp] theorem setTodo_env (l : List CtrlOp) (s : State) : (setTodo l s).env = s.env := rfl
@[simp] theorem setTodo_host (l : List CtrlOp) (s : State) : (setTodo l s).host = s.host := rfl
@[simp] theorem setTodo_hostData (l : List CtrlOp) (s : State) : (setTodo l s).hostData = s.hostData := rfl

@[simp] theorem finish_result (rc : ResultCode) (s : State) : (finish rc s).result = rc.toWord := rfl
@[simp] theorem finish_rdata (rc : ResultCode) (s : State) : (finish rc s).rdata = s.rdata := rfl
@[simp] theorem finish_bufbase (rc : ResultCode) (s : State) : (finish rc s).bufbase = s.bufbase := rfl
@[simp] theorem finish_buf (rc : ResultCode) (s : State) : (finish rc s).buf = s.buf := rfl
@[simp] theorem finish_initialized (rc : ResultCode) (s : State) : (finish rc s).initialized = s.initialized := rfl
@[simp] theorem finish_cfg (rc : ResultCode) (s : State) : (finish rc s).cfg = s.cfg := rfl
@[simp] theorem finish_ack (rc : ResultCode) (s : State) : (finish rc s).ack = s.ack := rfl
@[simp] theorem finish_pos (rc : ResultCode) (s : State) : (finish rc s).pos = s.pos := rfl
@[simp] theorem finish_enabled (rc : ResultCode) (s : State) : (finish rc s).enabled = s.enabled := rfl
@[simp] theorem finish_phase (rc : ResultCode) (s : State) : (finish rc s).phase = s.phase := rfl
@[simp] theorem finish_line (rc : ResultCode) (s : State) : (finish rc s).line = s.line := rfl
@[simp] theorem finish_busy (rc : ResultCode) (s : State) : (finish rc s).busy = s.busy := rfl
@[simp] theorem finish_dir (rc : ResultCode) (s : State) : (finish rc s).dir = s.dir := rfl
@[simp] theorem finish_tb (rc : ResultCode) (s : State) : (finish rc s).tb = s.tb := rfl
@[simp] theorem finish_trace (rc : ResultCode) (s : State) : (finish rc s).trace = s.trace := rfl
@[simp] theorem finish_seq (rc : ResultCode) (s : State) : (finish rc s).seq = none := rfl
@[simp] theorem finish_params (rc : ResultCode) (s : State) : (finish rc s).params = s.params := rfl
@[simp] theorem finish_env (rc : ResultCode) (s : State) : (finish rc s).env = s.env := rfl
@[simp] theorem finish_host (rc : ResultCode) (s : State) : (finish rc s).host = s.host := rfl
@[simp] theorem finish_hostData (rc : ResultCode) (s : State) : (finish rc s).hostData = s.hostData := rfl

@[simp] theorem timeoutExit_result (s : State) : (timeoutExit s).result = ResultCode.toWord .timeoutError := rfl
@[simp] theorem timeoutExit_rdata (s : State) : (timeoutExit s).rdata = s.rdata := rfl
@[simp] theorem timeoutExit_bufbase (s : State) : (timeoutExit s).bufbase = s.bufbase := rfl
@[simp] theorem timeoutExit_buf (s : State) : (timeoutExit s).buf = s.buf := rfl
@[simp] theorem timeoutExit_initialized (s : State) : (timeoutExit s).initialized = s.initialized := rfl
@[simp] theorem timeoutExit_cfg (s : State) : (timeoutExit s).cfg = s.cfg := rfl
@[simp] theorem timeoutExit_ack (s : State) : (timeoutExit s).ack = s.ack := rfl
@[simp] theorem timeoutExit_pos (s : State) : (timeoutExit s).pos = s.pos := rfl
@[simp] theorem timeoutExit_enabled (s : State) : (timeoutExit s).enabled = s.enabled := rfl
@[simp] theorem timeoutExit_phase (s : State) : (timeoutExit s).phase = .timedOut := rfl
@[simp] theorem timeoutExit_line (s : State) : (timeoutExit s).line = .unknown := rfl
@[simp] theorem timeoutExit_busy (s : State) : (timeoutExit s).busy = false := rfl
@[simp] theorem timeoutExit_dir (s : State) : (timeoutExit s).dir = s.dir := rfl
@[simp] theorem timeoutExit_tb (s : State) : (timeoutExit s).tb = s.tb := rfl
@[simp] theorem timeoutExit_trace (s : State) : (timeoutExit s).trace = s.trace := rfl
@[simp] theorem timeoutExit_seq (s : State) : (timeoutExit s).seq = none := rfl
@[simp] theorem timeoutExit_params (s : State) : (timeoutExit s).params = s.params := rfl
@[simp] theorem timeoutExit_env (s : State) : (timeoutExit s).env = s.env := rfl
@[simp] theorem timeoutExit_host (s : State) : (timeoutExit s).host = s.host := rfl
@[simp] theorem timeoutExit_hostData (s : State) : (timeoutExit s).hostData = s.hostData := rfl

@[simp] theorem acceptCommand_result (w : Word) (s : State) : (acceptCommand w s).result = s.result := rfl
@[simp] theorem acceptCommand_rdata (w : Word) (s : State) : (acceptCommand w s).rdata = s.rdata := rfl
@[simp] theorem acceptCommand_bufbase (w : Word) (s : State) : (acceptCommand w s).bufbase = s.bufbase := rfl
@[simp] theorem acceptCommand_buf (w : Word) (s : State) : (acceptCommand w s).buf = s.buf := rfl
@[simp] theorem acceptCommand_initialized (w : Word) (s : State) : (acceptCommand w s).initialized = s.initialized := rfl
@[simp] theorem acceptCommand_cfg (w : Word) (s : State) : (acceptCommand w s).cfg = s.cfg := rfl
@[simp] theorem acceptCommand_ack (w : Word) (s : State) : (acceptCommand w s).ack = s.ack := rfl
@[simp] theorem acceptCommand_pos (w : Word) (s : State) : (acceptCommand w s).pos = s.pos := rfl
@[simp] theorem acceptCommand_enabled (w : Word) (s : State) : (acceptCommand w s).enabled = s.enabled := rfl
@[simp] theorem acceptCommand_phase (w : Word) (s : State) : (acceptCommand w s).phase = s.phase := rfl
@[simp] theorem acceptCommand_line (w : Word) (s : State) : (acceptCommand w s).line = s.line := rfl
@[simp] theorem acceptCommand_busy (w : Word) (s : State) : (acceptCommand w s).busy = s.busy := rfl
@[simp] theorem acceptCommand_dir (w : Word) (s : State) : (acceptCommand w s).dir = s.dir := rfl
@[simp] theorem acceptCommand_tb (w : Word) (s : State) : (acceptCommand w s).tb = s.tb := rfl
@[simp] theorem acceptCommand_trace (w : Word) (s : State) : (acceptCommand w s).trace = s.trace := rfl
@[simp] theorem acceptCommand_seq (w : Word) (s : State) : (acceptCommand w s).seq = some { word := w, idx := 0, todo := [] } := rfl
@[simp] theorem acceptCommand_params (w : Word) (s : State) : (acceptCommand w s).params = s.params := rfl
@[simp] theorem acceptCommand_env (w : Word) (s : State) : (acceptCommand w s).env = s.env := rfl
@[simp] theorem acceptCommand_host (w : Word) (s : State) : (acceptCommand w s).host = s.host := rfl
@[simp] theorem acceptCommand_hostData (w : Word) (s : State) : (acceptCommand w s).hostData = s.hostData := rfl

@[simp] theorem hostReturn_result (d : HostDatum) (s : State) : (hostReturn d s).result = s.result := rfl
@[simp] theorem hostReturn_rdata (d : HostDatum) (s : State) : (hostReturn d s).rdata = s.rdata := rfl
@[simp] theorem hostReturn_bufbase (d : HostDatum) (s : State) : (hostReturn d s).bufbase = s.bufbase := rfl
@[simp] theorem hostReturn_buf (d : HostDatum) (s : State) : (hostReturn d s).buf = s.buf := rfl
@[simp] theorem hostReturn_initialized (d : HostDatum) (s : State) : (hostReturn d s).initialized = s.initialized := rfl
@[simp] theorem hostReturn_cfg (d : HostDatum) (s : State) : (hostReturn d s).cfg = s.cfg := rfl
@[simp] theorem hostReturn_ack (d : HostDatum) (s : State) : (hostReturn d s).ack = s.ack := rfl
@[simp] theorem hostReturn_pos (d : HostDatum) (s : State) : (hostReturn d s).pos = s.pos := rfl
@[simp] theorem hostReturn_enabled (d : HostDatum) (s : State) : (hostReturn d s).enabled = s.enabled := rfl
@[simp] theorem hostReturn_phase (d : HostDatum) (s : State) : (hostReturn d s).phase = s.phase := rfl
@[simp] theorem hostReturn_line (d : HostDatum) (s : State) : (hostReturn d s).line = s.line := rfl
@[simp] theorem hostReturn_busy (d : HostDatum) (s : State) : (hostReturn d s).busy = s.busy := rfl
@[simp] theorem hostReturn_dir (d : HostDatum) (s : State) : (hostReturn d s).dir = s.dir := rfl
@[simp] theorem hostReturn_tb (d : HostDatum) (s : State) : (hostReturn d s).tb = s.tb := rfl
@[simp] theorem hostReturn_trace (d : HostDatum) (s : State) : (hostReturn d s).trace = s.trace := rfl
@[simp] theorem hostReturn_seq (d : HostDatum) (s : State) : (hostReturn d s).seq = s.seq := rfl
@[simp] theorem hostReturn_params (d : HostDatum) (s : State) : (hostReturn d s).params = s.params := rfl
@[simp] theorem hostReturn_env (d : HostDatum) (s : State) : (hostReturn d s).env = s.env := rfl
@[simp] theorem hostReturn_host (d : HostDatum) (s : State) : (hostReturn d s).host = s.host := rfl
@[simp] theorem hostReturn_hostData (d : HostDatum) (s : State) : (hostReturn d s).hostData = s.hostData ++ [d] := rfl

end Sys2Proof.Machine
end

