-- ==== Sys2Proof/Laws/Ops.lean ====
section
/-! SUPPORT. Sys2Proof/Laws/Ops.lean: everything the watchdog-bounded wait can do (R77), and what one operation of a
command leaves alone. -/

namespace Sys2Proof.Machine

/-- The state after a wait that succeeded at its poll number `j`, counted from 0. -/
def waited (f : StatusFlag) (j : Nat) (s : State) : State :=
  { s with
    tb := s.params.timeoutLimit - j
    trace := s.trace ++ (List.replicate j (.poll f false) ++ [.poll f true])
    env := s.env.afterPolls (j + 1) }

/-- The state after a wait that expired. -/
def expired (f : StatusFlag) (s : State) : State :=
  timeoutExit
    { s with
      tb := 0
      trace := s.trace ++ List.replicate s.params.timeoutLimit (.poll f false)
      env := s.env.afterPolls s.params.timeoutLimit }

theorem emit_poll (f : StatusFlag) (v : Bool) (s : State) :
    emit (.poll f v) s = { s with trace := s.trace ++ [.poll f v] } := rfl

theorem poll_eq (f : StatusFlag) (s : State) :
    poll f s = { s with trace := s.trace ++ [.poll f (s.env.pollAt 0)], env := s.env.afterPolls 1 } := rfl

theorem rx_eq (s : State) :
    rx s = { s with trace := s.trace ++ [.rx (s.env.rxAt 0)], env := s.env.afterRxs 1 } := rfl

theorem waitLoop_zero (f : StatusFlag) (s : State) : waitLoop f 0 s = .ended (timeoutExit s) := rfl

theorem waitLoop_succ_true (f : StatusFlag) (n : Nat) {s : State} (h : s.env.pollAt 0 = true) :
    waitLoop f (n + 1) s = .go (poll f s) := by
  simp [waitLoop, pollAnswer, h]

theorem waitLoop_succ_false (f : StatusFlag) (n : Nat) {s : State} (h : s.env.pollAt 0 = false) :
    waitLoop f (n + 1) s = waitLoop f n { poll f s with tb := n } := by
  simp [waitLoop, pollAnswer, h]

/-- The loop of a wait succeeds at its first poll that answers true, or expires after `n` that answered false. -/
theorem waitLoop_cases (f : StatusFlag) (n : Nat) (s : State) (htb : s.tb = n) :
    (∃ j, j < n ∧ EnvSilent j s ∧ s.env.pollAt j = true ∧
      waitLoop f n s = .go { s with
        tb := n - j
        trace := s.trace ++ (List.replicate j (.poll f false) ++ [.poll f true])
        env := s.env.afterPolls (j + 1) }) ∨
    (EnvSilent n s ∧
      waitLoop f n s = .ended (timeoutExit { s with
        tb := 0
        trace := s.trace ++ List.replicate n (.poll f false)
        env := s.env.afterPolls n })) := by
  induction n generalizing s with
  | zero =>
    refine .inr ⟨fun k hk => absurd hk (Nat.not_lt_zero k), ?_⟩
    rw [waitLoop_zero]
    cases s
    simp_all
  | succ n ih =>
    cases h : s.env.pollAt 0 with
    | true =>
      refine .inl ⟨0, Nat.succ_pos n, fun k hk => absurd hk (Nat.not_lt_zero k), h, ?_⟩
      rw [waitLoop_succ_true f n h, poll_eq]
      cases s
      simp_all
    | false =>
      rw [waitLoop_succ_false f n h]
      rcases ih { poll f s with tb := n } rfl with ⟨j, hj, hs, ht, he⟩ | ⟨hs, he⟩
      · refine .inl ⟨j + 1, by omega, ?_, ?_, ?_⟩
        · intro k hk
          cases k with
          | zero => exact h
          | succ k =>
            have := hs k (by omega)
            simpa [Nat.add_comm] using this
        · simpa [Nat.add_comm] using ht
        · rw [he]
          simp [h, List.replicate_succ, Nat.add_comm, Nat.add_sub_add_right]
      · refine .inr ⟨?_, ?_⟩
        · intro k hk
          cases k with
          | zero => exact h
          | succ k =>
            have := hs k (by omega)
            simpa [Nat.add_comm] using this
        · rw [he]
          simp [h, List.replicate_succ, Nat.add_comm]

/-- `wait(f)`, whole (R77). -/
theorem waitFor_cases (f : StatusFlag) (s : State) :
    (∃ j, j < s.params.timeoutLimit ∧ EnvSilent j s ∧ s.env.pollAt j = true ∧ waitFor f s = .go (waited f j s)) ∨
    (EnvSilent s.params.timeoutLimit s ∧ waitFor f s = .ended (expired f s)) :=
  waitLoop_cases f s.params.timeoutLimit { s with tb := s.params.timeoutLimit } rfl

/-- A wait whose flag is set at once makes one poll. -/
theorem waitFor_immediate {f : StatusFlag} {s : State} (hl : 1 ≤ s.params.timeoutLimit)
    (h : s.env.pollAt 0 = true) : waitFor f s = .go (waited f 0 s) := by
  rcases waitFor_cases f s with ⟨j, -, hs, -, he⟩ | ⟨hs, -⟩
  · cases j with
    | zero => exact he
    | succ j => exact absurd (hs 0 (by omega)) (by simp [h])
  · exact absurd (hs 0 (by omega)) (by simp [h])

/-- A wait whose flag never answers true within the limit expires. -/
theorem waitFor_silent {f : StatusFlag} {s : State} (h : EnvSilent s.params.timeoutLimit s) :
    waitFor f s = .ended (expired f s) := by
  rcases waitFor_cases f s with ⟨j, hj, -, ht, -⟩ | ⟨-, he⟩
  · exact absurd (h j hj) (by simp [ht])
  · exact he

/-- Outside BUF nothing is there to send: a data byte of a WRITE goes out as TX. -/
theorem txBufOp_ok {k : Nat} {s : State} {b : Byte} (hk : k < s.params.bufSize)
    (h : Memory.read s.buf k = some b) : txBufOp k s = .go (advanceIdx (emit (.tx b) s)) := by
  simp [txBufOp, memRead_ok hk h]

theorem rxBufOp_ok {k : Nat} {s : State} (hk : k < s.params.bufSize) :
    rxBufOp k s = .go (advanceIdx { rx s with buf := Memory.write s.buf k (s.env.rxAt 0) }) := by
  rw [rxBufOp, memWrite_ok _ (by exact hk)]
  rfl

/-- What no command writes: BUFBASE (R26), the parameters (R7), the host's accesses and what it got. -/
structure SameHost (s t : State) : Prop where
  bufbase : t.bufbase = s.bufbase
  params : t.params = s.params
  host : t.host = s.host
  hostData : t.hostData = s.hostData

theorem SameHost.refl (s : State) : SameHost s s := ⟨rfl, rfl, rfl, rfl⟩

theorem SameHost.trans {s t u : State} (h : SameHost s t) (k : SameHost t u) : SameHost s u :=
  ⟨k.bufbase.trans h.bufbase, k.params.trans h.params, k.host.trans h.host, k.hostData.trans h.hostData⟩

/-- The state a flow carries, if it is not a fault, meets `P`. -/
def Flow.all (P : State → Prop) : Flow → Prop
  | .go t => P t
  | .ended t => P t
  | .fault _ => True

theorem waitLoop_all {P : State → Prop} (f : StatusFlag) (hp : ∀ s, P s → P (poll f s))
    (ht : ∀ s n, P s → P { s with tb := n }) (he : ∀ s, P s → P (timeoutExit s)) (n : Nat) :
    ∀ s, P s → (waitLoop f n s).all P := by
  induction n with
  | zero => exact fun s h => he s h
  | succ n ih =>
    intro s h
    cases hv : s.env.pollAt 0 with
    | true => rw [waitLoop_succ_true f n hv]; exact hp s h
    | false => rw [waitLoop_succ_false f n hv]; exact ih _ (ht _ _ (hp s h))

/-- No operation of a command writes BUFBASE, the parameters or the host's side, and each only adds to TRACE (R36). -/
theorem doOp_keeps (op : CtrlOp) (s : State) : (doOp op s).all (fun t => SameHost s t ∧ s.trace <+: t.trace) := by
  have wait (f : StatusFlag) (n : Nat) (u : State) (hu : SameHost s u ∧ s.trace <+: u.trace) :
      (waitLoop f n u).all (fun t => SameHost s t ∧ s.trace <+: t.trace) := by
    refine waitLoop_all f ?_ ?_ ?_ n u hu
    · exact fun t h => ⟨⟨h.1.1, h.1.2, h.1.3, h.1.4⟩, h.2.trans (List.prefix_append _ _)⟩
    · exact fun t n h => ⟨⟨h.1.1, h.1.2, h.1.3, h.1.4⟩, h.2⟩
    · exact fun t h => ⟨⟨h.1.1, h.1.2, h.1.3, h.1.4⟩, h.2⟩
  cases op with
  | emit e => exact ⟨⟨rfl, rfl, rfl, rfl⟩, List.prefix_append _ _⟩
  | start => exact ⟨⟨rfl, rfl, rfl, rfl⟩, List.prefix_append _ _⟩
  | txBuf k =>
    simp only [doOp, txBufOp]
    split
    · exact ⟨⟨rfl, rfl, rfl, rfl⟩, List.prefix_append _ _⟩
    · trivial
  | rxBuf k =>
    simp only [doOp, rxBufOp]
    split
    · next t h =>
      obtain ⟨-, rfl⟩ := memWrite_cases h
      exact ⟨⟨rfl, rfl, rfl, rfl⟩, List.prefix_append _ _⟩
    · trivial
  | wait f => exact wait f _ _ ⟨⟨rfl, rfl, rfl, rfl⟩, List.prefix_refl _⟩
  | polling f => exact wait f _ _ ⟨SameHost.refl s, List.prefix_refl _⟩
  | _ => exact ⟨⟨rfl, rfl, rfl, rfl⟩, List.prefix_refl _⟩

end Sys2Proof.Machine
end

