-- ==== Sys2Proof/Laws/PerInstr.lean ====
section
/-! SUPPORT. Sys2Proof/Laws/PerInstr.lean: the statements about every instruction as syntax, one lemma per constructor. -/

namespace Sys2Proof.Laws.OpcodeField

open Sys2Proof

/-- The OP field of the encoded word is the instruction's OP value (R63, R64). -/
def Statement (i : Instr) : Prop := opField (encode i) = i.opcode

theorem init : Statement .init := rfl
theorem uninit : Statement .uninit := rfl
theorem power (ps : PowerState) : Statement (.power ps) := by cases ps <;> rfl
theorem write (a : BitVec 7) (len : Nat) (pend bufv : Bool) : Statement (.write a len pend bufv) := by
  apply BitVec.eq_of_toNat_eq
  rw [opField_toNat, encode, encodeT_toNat]
  simp only [Instr.opcode, BitVec.toNat_ofNat]
  omega
theorem read (a : BitVec 7) (len : Nat) (pend bufv : Bool) : Statement (.read a len pend bufv) := by
  apply BitVec.eq_of_toNat_eq
  rw [opField_toNat, encode, encodeT_toNat]
  simp only [Instr.opcode, BitVec.toNat_ofNat]
  omega
theorem control (o v : Nat) : Statement (.control o v) := by
  apply BitVec.eq_of_toNat_eq
  rw [opField_toNat, encode, encodeC_toNat]
  simp only [Instr.opcode, BitVec.toNat_ofNat]
  omega
theorem getStatus : Statement .getStatus := rfl
theorem getVersion : Statement .getVersion := rfl
theorem getCapabilities : Statement .getCapabilities := rfl
theorem slaveTx : Statement .slaveTx := rfl
theorem slaveRx : Statement .slaveRx := rfl

end Sys2Proof.Laws.OpcodeField
end

