-- ==== Sys2Proof/Laws/Sequencer.lean ====
section
/-! SUPPORT. Sys2Proof/Laws/Sequencer.lean: how operation lists run, and `exec` as the run of `commandOps`. -/

namespace Sys2Proof.Machine

@[simp] theorem Flow.andThen_go (s : State) (k : State → Flow) : (Flow.go s).andThen k = k s := rfl

@[simp] theorem Flow.andThen_ended (s : State) (k : State → Flow) : (Flow.ended s).andThen k = .ended s := rfl

@[simp] theorem Flow.andThen_fault (r : Fault) (k : State → Flow) : (Flow.fault r).andThen k = .fault r := rfl

theorem Flow.andThen_assoc (x : Flow) (k l : State → Flow) :
    (x.andThen k).andThen l = x.andThen (fun s => (k s).andThen l) := by
  cases x <;> rfl

theorem Flow.all_andThen {P : State → Prop} {x : Flow} {k : State → Flow} (hx : x.all P)
    (hk : ∀ s, P s → (k s).all P) : (x.andThen k).all P := by
  cases x with
  | go s => exact hk s hx
  | ended s => exact hx
  | fault r => trivial

@[simp] theorem runFlow_nil (s : State) : runFlow [] s = .go s := rfl

theorem runFlow_cons (op : CtrlOp) (ops : List CtrlOp) (s : State) :
    runFlow (op :: ops) s = (doOp op s).andThen (runFlow ops) := rfl

/-- Lists run one after the other. -/
theorem runFlow_append (xs ys : List CtrlOp) (s : State) :
    runFlow (xs ++ ys) s = (runFlow xs s).andThen (runFlow ys) := by
  induction xs generalizing s with
  | nil => rfl
  | cons op xs ih =>
    rw [List.cons_append, runFlow_cons, runFlow_cons, Flow.andThen_assoc]
    congr 1
    funext t
    exact ih t

theorem runFlow_go {op : CtrlOp} {ops : List CtrlOp} {s t : State} (h : doOp op s = .go t) :
    runFlow (op :: ops) s = runFlow ops t := by
  rw [runFlow_cons, h, Flow.andThen_go]

theorem runFlow_ended {op : CtrlOp} {ops : List CtrlOp} {s t : State} (h : doOp op s = .ended t) :
    runFlow (op :: ops) s = .ended t := by
  rw [runFlow_cons, h, Flow.andThen_ended]

/-- A property every operation keeps holds after a whole list. -/
theorem runFlow_all {P : State → Prop} (h : ∀ op s, P s → (doOp op s).all P) (ops : List CtrlOp) :
    ∀ s, P s → (runFlow ops s).all P := by
  induction ops with
  | nil => exact fun s hs => hs
  | cons op ops ih => exact fun s hs => Flow.all_andThen (h op s hs) ih

/-- A command is its operations, run. -/
theorem exec_eq_runCommand (i : Instr) (s : State) : exec i s = runCommand (commandOps i s) s := by
  cases i <;> rfl

theorem runOps_next {ops : List CtrlOp} {s t : State} (h : runOps ops s = .next t) :
    runFlow ops s = .ended t ∨ ∃ u, runFlow ops s = .go u ∧ t = { u with seq := none } := by
  simp only [runOps] at h
  split at h
  · next u hu => exact .inr ⟨u, hu, by cases h; rfl⟩
  · next u hu => cases h; exact .inl hu
  · cases h

/-- A run never leaves the host stuck. -/
theorem runOps_ne_refused (ops : List CtrlOp) (s : State) (r : Refusal) : runOps ops s ≠ .refused r := by
  simp only [runOps]
  split <;> simp

theorem runCommand_ok {ops : List CtrlOp} (s : State) : runCommand (.ok ops) s = runOps ops s := rfl

/-- No operation of a command starts one or changes its word; the last ends it. -/
theorem doOp_seq_none (op : CtrlOp) (s : State) (h : s.seq = none) : (doOp op s).all (fun t => t.seq = none) := by
  have wait (f : StatusFlag) (n : Nat) (u : State) (hu : u.seq = none) :
      (waitLoop f n u).all (fun t => t.seq = none) :=
    waitLoop_all f (fun t ht => ht) (fun t n ht => ht) (fun t ht => rfl) n u hu
  cases op with
  | txBuf k =>
    simp only [doOp, txBufOp]
    split
    · simp [Flow.all, h]
    · trivial
  | rxBuf k =>
    simp only [doOp, rxBufOp]
    split
    · next t ht =>
      obtain ⟨-, rfl⟩ := memWrite_cases ht
      simp [Flow.all, h]
    · trivial
  | wait f => exact wait f _ _ h
  | polling f => exact wait f _ _ h
  | finish rc => rfl
  | _ => exact h

/-- What a command leaves alone, whichever it is: BUFBASE, the parameters, the host's side; and it only adds to
TRACE. -/
theorem runFlow_keeps (ops : List CtrlOp) (s : State) :
    (runFlow ops s).all (fun t => SameHost s t ∧ s.trace <+: t.trace) := by
  refine runFlow_all (fun op u hu => ?_) ops s ⟨SameHost.refl s, List.prefix_refl _⟩
  have := doOp_keeps op u
  cases h : doOp op u with
  | go t => rw [h] at this; exact ⟨hu.1.trans this.1, hu.2.trans this.2⟩
  | ended t => rw [h] at this; exact ⟨hu.1.trans this.1, hu.2.trans this.2⟩
  | fault r => trivial

/-- The same of `runOps`. -/
theorem runOps_keeps {ops : List CtrlOp} {s t : State} (h : runOps ops s = .next t) :
    SameHost s t ∧ s.trace <+: t.trace := by
  have k := runFlow_keeps ops s
  rcases runOps_next h with hf | ⟨u, hf, rfl⟩
  · rw [hf] at k; exact k
  · rw [hf] at k; exact ⟨⟨k.1.1, k.1.2, k.1.3, k.1.4⟩, k.2⟩

/-- A sequencer position's remaining operations play no part in what an operation does. -/
theorem doOp_setTodo (op : CtrlOp) (l : List CtrlOp) (s : State) :
    doOp op (setTodo l s) = match doOp op s with
      | .go t => .go (setTodo l t)
      | .ended t => .ended t
      | .fault r => .fault r := by
  have wait (f : StatusFlag) (n : Nat) : ∀ u : State,
      waitLoop f n (setTodo l u) = match waitLoop f n u with
        | .go t => .go (setTodo l t)
        | .ended t => .ended t
        | .fault r => .fault r := by
    induction n with
    | zero => intro u; rfl
    | succ n ih =>
      intro u
      cases hv : u.env.pollAt 0 with
      | true =>
        rw [waitLoop_succ_true f n (s := setTodo l u) (by exact hv), waitLoop_succ_true f n hv]
        rfl
      | false =>
        rw [waitLoop_succ_false f n (s := setTodo l u) (by exact hv), waitLoop_succ_false f n hv]
        exact ih { poll f u with tb := n }
  cases op with
  | txBuf k =>
    have hr : memRead k (setTodo l s) = memRead k s := rfl
    simp only [doOp, txBufOp, hr]
    cases memRead k s with
    | error r => rfl
    | ok b => cases hs : s.seq <;> simp [advanceIdx, setTodo, emit, hs]
  | rxBuf k =>
    by_cases hk : k < s.params.bufSize
    · simp only [doOp, rxBufOp_ok (s := setTodo l s) hk, rxBufOp_ok hk]
      cases hs : s.seq <;> simp [advanceIdx, setTodo, rx_eq, hs]
    · simp [doOp, rxBufOp, memWrite, hk]
  | wait f => exact wait f _ { s with tb := s.params.timeoutLimit }
  | polling f => exact wait f s.tb s
  | _ => rfl

end Sys2Proof.Machine
end

