-- ==== Sys2Proof/Tests/Slice0.lean ====
section
/-! SUPPORT. Sys2Proof/Tests/Slice0.lean: the model's own tests, expected values from 95_test_vectors.md and the rules,
and the witnesses of the statements' hypotheses. -/

namespace Sys2Proof.Tests

open Sys2Proof.Machine Sys2Proof.Claims

/-! The states of the tests: the parameters of 95_test_vectors.md "Conventions". -/

def params : Params :=
  { timeoutLimit := 3, bufSize := 16, versionWord := 0x12345678, clkCfg := { divisor := 5, riseTime := 6 }
    pinMap := { clockPin := 7, dataPin := 8 }, readPendingStop := .suppress, initEnables := true }

/-- Reset, with the conventions' parameters and an environment that first answers `polls` and `rxs`. -/
def small (polls : List Bool) (rxs : List Byte) : State :=
  { State.reset with params := params, env := { polls := polls, rxs := rxs, pollsDrawn := 0, rxsDrawn := 0 } }

/-- An environment that answers the next eight polls true. -/
def quick (rxs : List Byte) : State := small [true, true, true, true, true, true, true, true] rxs

/-- `quick` with BUF[0..1] = [0x20, 0x00]. -/
def filled : State := { quick [] with buf := [(0, 0x20), (1, 0x00)] }

/-- A host access pending. -/
def asks (a : HostAccess) (s : State) : State := { s with host := [a] }

def after (o : Host.Outcome State Fault Refusal) : Option State :=
  match o with
  | .next t => some t
  | _ => none

def faults (o : Host.Outcome State Fault Refusal) : Option Fault :=
  match o with
  | .fault r => some r
  | _ => none

def refuses (o : Host.Outcome State Fault Refusal) : Option Refusal :=
  match o with
  | .refused r => some r
  | _ => none

/-! WellFormed: an ill-formed term for each check. -/

theorem test_write_len_too_long : (Instr.write 0x4A 65536 false true).wellFormed = false := by decide
theorem test_read_len_too_long : (Instr.read 0x41 65536 false true).wellFormed = false := by decide
theorem test_control_option_too_wide : (Instr.control 256 1).wellFormed = false := by decide
theorem test_control_value_too_wide : (Instr.control 1 65536).wellFormed = false := by decide

/-! Decoding: words written out bit by bit from the formats of R64, one at least for each constructor. -/

theorem test_decode_init : decode 0b11111111111111111111111111110001 = .command .init := by decide
theorem test_decode_uninit : decode 0b00000000000000000000000000000010 = .command .uninit := by decide
theorem test_decode_power_off : decode 0b00000000000000000000000000000011 = .command (.power .off) := by decide
theorem test_decode_power_low : decode 0b00000000000000000000000000010011 = .command (.power .low) := by decide
theorem test_decode_power_full : decode 0b11111111111111111111111111100011 = .command (.power .full) := by decide
theorem test_decode_power_three : decode 0b00000000000000000000000000110011 = .command (.power .unnamed) := by decide
theorem test_decode_write :
    decode 0b00000000000000100011100101000100 = .command (.write 0x4A 2 false true) := by decide
theorem test_decode_write_nobuf :
    decode 0b11111111111111110000111111100100 = .command (.write 0x7F 65535 false false) := by decide
theorem test_decode_read :
    decode 0b00000000000000011111111111110101 = .command (.read 0x7F 1 true true) := by decide
theorem test_decode_control :
    decode 0b00000000000000010000000111110110 = .command (.control 0x01 0x0001) := by decide
theorem test_decode_get_status : decode 0b11111111111111111111111111110111 = .command .getStatus := by decide
theorem test_decode_get_version : decode 0b00000000000000000000000000001000 = .command .getVersion := by decide
theorem test_decode_get_capabilities :
    decode 0b00000000000000000000000000001001 = .command .getCapabilities := by decide
theorem test_decode_slave_tx : decode 0b11111111111111111111111111111010 = .command .slaveTx := by decide
theorem test_decode_slave_rx : decode 0b00000000000000000000000000001011 = .command .slaveRx := by decide
theorem test_decode_reserved_zero : decode 0b00000000000000100001100101000000 = .reservedOpcode 0x0 := by decide
theorem test_decode_reserved_c : decode 0b00000000000000000000000000001100 = .reservedOpcode 0xC := by decide
theorem test_decode_reserved_f : decode 0b00000000000000000000000000001111 = .reservedOpcode 0xF := by decide
theorem test_table_word_read : decodeTableWord 8 0x05 = some (.read 0 0 false false) := by decide
theorem test_table_word_reserved : decodeTableWord 32 0x0C = none := by decide

/-! Commands, one step each (95_test_vectors.md sections 1 and 2). -/

theorem test_init_events : (after (exec .init (quick []))).map (·.trace) =
    some [.pinsCfg, .periphReset, .clkCfg, .enable] := by decide
theorem test_init_clears_residue : (after (exec .init { quick [] with pos := true, line := .unknown, dir := .read })).map
    (fun t => (t.pos, t.line, t.dir, t.enabled, t.initialized)) =
    some (false, .released, .write, true, true) := by decide
theorem test_uninit_keeps_dir : (after (exec .uninit { quick [] with dir := .read, enabled := true })).map
    (fun t => (t.trace, t.dir, t.enabled, t.cfg)) = some ([.disable], .read, false, none) := by decide
theorem test_power_off_releases_line : (after (exec (.power .off) { quick [] with line := .held })).map
    (fun t => (t.trace, t.line, t.result)) = some ([.disable], .released, 0) := by decide
theorem test_power_full_keeps_line : (after (exec (.power .full) { quick [] with line := .held })).map
    (fun t => (t.trace, t.line, t.enabled)) = some ([.enable], .held, true) := by decide
theorem test_write_two_bytes : (after (exec (.write 0x4A 2 false true) filled)).map (fun t => (t.trace, t.result)) =
    some ([.start .released, .poll .sb true, .tx 0x94, .poll .addr true, .clrAddr, .poll .txe true, .tx 0x20,
      .poll .txe true, .tx 0x00, .poll .btf true, .stop], 0) := by decide
theorem test_write_times_out_at_second_byte :
    (after (exec (.write 0x4A 2 false true)
      { filled with env := { polls := [true, true, true, false, false, false], rxs := [], pollsDrawn := 0, rxsDrawn := 0 } })).map
      (fun t => (t.trace.length, t.result, t.phase, t.line, t.busy)) = some (10, 2, .timedOut, .unknown, false) := by
  decide
theorem test_read_five_bytes : (after (exec (.read 0x41 5 false true) (quick [1, 2, 3, 4, 5]))).map
    (fun t => (t.trace, t.buf)) =
    some ([.start .released, .poll .sb true, .tx 0x83, .poll .addr true, .ackOn, .clrAddr, .poll .rxne true, .rx 1,
      .poll .rxne true, .rx 2, .poll .btf true, .ackOff, .rx 3, .stop, .rx 4, .poll .rxne true, .rx 5],
      [(0, 1), (1, 2), (2, 3), (3, 4), (4, 5)]) := by decide
theorem test_read_two_pending_holds_bus : (after (exec (.read 0x41 2 true true) (quick [8, 0x11]))).map
    (fun t => (t.trace.drop 4, t.line, t.pos)) =
    some ([.posOnAckOff, .clrAddr, .poll .btf true, .rx 8, .rx 0x11, .posOff], .held, false) := by decide
theorem test_control_other_rate : (after (exec (.control 1 2) (quick []))).map (·.result) = some 3 := by decide
theorem test_control_standard : (after (exec (.control 1 1) { quick [] with result := 3 })).map (·.result) = some 0 := by
  decide
theorem test_get_status_after_read : (after (exec .getStatus { quick [] with dir := .read })).map (·.rdata) = some 2 := by
  decide
theorem test_get_version : (after (exec .getVersion (quick []))).map (·.rdata) = some 0x12345678 := by decide
theorem test_get_capabilities : (after (exec .getCapabilities { quick [] with rdata := 5 })).map (·.rdata) = some 0 := by
  decide
theorem test_slave_tx : (after (exec .slaveTx (quick []))).map (fun t => (t.result, t.trace)) = some (3, []) := by decide
theorem test_slave_rx : (after (exec .slaveRx (quick []))).map (fun t => (t.result, t.trace)) = some (3, []) := by decide
theorem test_reserved_keeps_held :
    (after (step ({ quick [] with line := .held }.withFetchWord 32 0x00021940))).map
      (fun t => (t.result, t.line, t.trace)) = some (3, .held, []) := by decide

/-! Host accesses (95_test_vectors.md section 2.9, 2.4). -/

theorem test_bufbase_keeps_low_half :
    (after (step (asks { offset := 0x00C, width := .w32, kind := .write 0xFFFF0003 } (quick [])))).map (·.bufbase) =
      some 0x00000003 := by decide
theorem test_undefined_byte_read :
    faults (step (asks { offset := 0x103, width := .w8, kind := .read } (quick []))) = some .undefinedBufferByte := by
  decide
theorem test_byte_read_of_register :
    refuses (step (asks { offset := 0x004, width := .w8, kind := .read } (quick []))) = some .registerAccessWidth := by
  decide
theorem test_misaligned_read :
    refuses (step (asks { offset := 0x002, width := .w32, kind := .read } (quick []))) = some .registerAccessMisaligned := by
  decide
theorem test_word_read_of_buffer :
    refuses (step (asks { offset := 0x100, width := .w32, kind := .read } (quick []))) = some .bufferAccessWidth := by
  decide
theorem test_past_the_buffer :
    refuses (step (asks { offset := 0x110, width := .w8, kind := .read } (quick []))) = some .outsideBlock := by decide
theorem test_last_buffer_byte : (after (step (asks { offset := 0x10F, width := .w8, kind := .write 0xAB } (quick [])))).map
    (·.buf) = some [(15, 0xAB)] := by decide
theorem test_register_byte_order : registerByte 0x44332211 0 = 0x11 ∧ registerByte 0x44332211 3 = 0x44 := by decide
theorem test_event_and_flag_codes : (Event.start .held).code = 1 ∧ Event.disable.code = 15 ∧ StatusFlag.rxne.code = 4 := by
  decide

/-! The assembler's text (R67, R68). -/

theorem test_text_regread : (parseLine " REGREAD 0x41, 0, 2 ; comment".toList).toOption =
    some (some (.regRead 0x41 0 2)) := by decide
theorem test_text_read_options : (parseLine "READ 0x41, 1, PEND, NOBUF".toList).toOption =
    some (some (.command (.read 0x41 1 true false))) := by decide
theorem test_text_len_out_of_range : (parseLine "WRITE 0x41, 65536".toList).toOption = none := by decide
theorem test_regwrite_accesses : assemble 4 [.regWrite 0x4A 0x02 0x9E] =
    [{ offset := 0x104, width := .w8, kind := .write 0x02 }, { offset := 0x105, width := .w8, kind := .write 0x9E },
      { offset := 0x000, width := .w32, kind := .write 0x00021944 }] := by decide

/-! Witnesses: concrete states and operands that meet the hypotheses of each statement. -/

theorem invariant_of_quick (rxs : List Byte) : (quick rxs).Inv :=
  ⟨rfl, List.Pairwise.nil, (fun c hc => nomatch hc), rfl, (by show (0 : Nat) < 4; decide), rfl, rfl, .inl rfl,
    (fun h => nomatch h), rfl⟩

theorem witness_DecodeOfEncode : (Instr.write 0x7F 65535 true false).wellFormed = true := by decide
theorem witness_EncodeOfDecode : decode 0x00023944 = .command (.write 0x4A 2 false true) := by decide
theorem witness_ReservedEncodings_bits : decode 0x00021944 = .command (.write 0x4A 2 false true) ∧
    (0x00023944 : Word) &&& ~~~ (Instr.write 0x4A 2 false true).reservedMask =
      0x00021944 &&& ~~~ (Instr.write 0x4A 2 false true).reservedMask := by decide
theorem witness_ReservedEncodings_opcodes : (0x00000000 : Word).toNat % 16 = 0x0 ∧ 0xC ≤ (0x0000000C : Word).toNat % 16 ∧
    0xC ≤ (0xFFFFFFFF : Word).toNat % 16 := by decide
theorem witness_ReservedEncodings_power : (0x00000013 : Word).toNat % 16 = 0x3 ∧ (0x00000013 : Word).toNat / 16 % 4 = 1 ∧
    (0x00000033 : Word).toNat % 16 = 0x3 ∧ (0x00000033 : Word).toNat / 16 % 4 = 3 := by decide
theorem witness_ReservedEncodings_control : (0x00020106 : Word).toNat % 16 = 0x6 ∧
    ¬ ((0x00020106 : Word).toNat / 256 % 256 = 0x01 ∧ (0x00020106 : Word).toNat / 65536 = 0x0001) := by decide
theorem witness_ReservedEncodings_transfer : (0x00020944 : Word).toNat % 16 = 0x4 ∧
    (0x00020944 : Word).toNat / 4096 % 2 = 0 ∧ (0x00001825 : Word).toNat % 16 = 0x5 ∧
    (0x00001825 : Word).toNat / 65536 = 0 := by decide
theorem witness_EncodingTable : (65535 : Nat) < 65536 := by decide

theorem witness_StepRunsDecodedCommand : ∃ s : State, s.seq = none ∧ s.host = cmdAccess 0x00000007 :: [] ∧
    decode 0x00000007 = .command .getStatus ∧ decode 0x0000000C = .reservedOpcode 0xC :=
  ⟨asks (cmdAccess 0x00000007) (quick []), rfl, rfl, by decide, by decide⟩
theorem witness_NoAccessDuringCommand : ∃ (s t : State) (p : SeqPos), s.seq = some p ∧ s.host ≠ [] ∧ step s = .next t :=
  ⟨{ asks (cmdAccess 1) (quick []) with seq := some { word := 5, idx := 0, todo := [.start] } }, _, _, rfl, by decide, rfl⟩
theorem test_first_step_after_reset : ∀ w ∈ [0x00000001, 0x00000002, 0x00000023, 0x00000004, 0x00000005, 0x00000006,
    0x00000007, 0x00000008, 0x00000009, 0x0000000A, 0x0000000B],
    (after (step (State.reset.withFetchWord 32 w))).isSome = true := by decide
theorem witness_WaitsForTheHost : runEnded State.reset = true := by decide
theorem witness_ControllerStepsRefineCommand : (∃ u, startCommand 0x00051825 (quick [1, 2, 3, 4, 5]) = .ok u) ∧
    ∃ r, startCommand 0x00021944 (quick []) = .error r := ⟨⟨_, rfl⟩, ⟨_, rfl⟩⟩
theorem witness_TransferControllerSteps : ∃ (u v v' : State) (p : SeqPos),
    decode 0x00021825 = .command (.read 0x41 2 false true) ∧ TransferReady 2 true (quick [8, 9]) ∧
    startCommand 0x00021825 (quick [8, 9]) = .ok u ∧ Host.Core.run Sys2Proof.core 10 u = .next v ∧ v.seq = some p ∧
    step v = .next v' ∧ v'.trace ≠ v.trace ∧ v.pos = false ∧ v'.pos = true :=
  ⟨_, _, _, _, by decide, ⟨rfl, by decide, by decide⟩, rfl, rfl, rfl, rfl, by decide, by decide, by decide⟩
theorem witness_PhaseFollowsItsStateMachine : ∃ (u v v' : State) (p : SeqPos), (quick [8, 9]).Inv ∧
    decode 0x00021825 = .command (.read 0x41 2 false true) ∧ startCommand 0x00021825 (quick [8, 9]) = .ok u ∧
    Host.Core.run Sys2Proof.core 2 u = .next v ∧ v.seq = some p ∧ step v = .next v' ∧ v'.phase = .startPending :=
  ⟨_, _, _, _, invariant_of_quick _, by decide, rfl, rfl, rfl, rfl, by decide⟩
theorem witness_StepKeepsInvariant : ∃ s t : State, s.Inv ∧ step s = .next t ∧ t.result = 0 ∧ t.trace ≠ [] := by
  have h := invariant_of_quick [7]
  exact ⟨asks (cmdAccess 0x00011825) (quick [7]), _,
    ⟨h.params, h.memory, h.below, h.base, h.result, rfl, rfl, .inl rfl, h.line, rfl⟩, rfl, by decide, by decide⟩
theorem witness_TraceOnlyGrows : ∃ t, step (asks (cmdAccess 1) { quick [] with trace := [.stop] }) = .next t := ⟨_, rfl⟩
theorem witness_DefinedBytesStayDefined : ∃ s t : State, step s = .next t ∧ Memory.read s.buf 1 ≠ none :=
  ⟨asks (cmdAccess 0x00011825) filled, _, rfl, by decide⟩
theorem witness_ParametersNeverChange : ∃ t, step (asks (cmdAccess 2) (quick [])) = .next t := ⟨_, rfl⟩

theorem witness_HostStuckOnlyOnOtherAccesses : ∃ (s : State) (a : HostAccess), s.seq = none ∧ s.host = a :: [] ∧
    0x100 ≤ a.offset.toNat ∧ a.offset.toNat < 0x100 + s.params.bufSize ∧ a.width = .w8 :=
  ⟨asks { offset := 0x10F, width := .w8, kind := .read } (quick []), _, rfl, rfl, by decide, by decide, rfl⟩
theorem witness_RegisterReads (off : Word) (h : off ∈ [0x000, 0x004, 0x008, 0x00C, 0x010, 0x0FC]) :
    ∃ s : State, s.seq = none ∧ s.host = { offset := off, width := .w32, kind := .read } :: [] ∧
      off.toNat < 0x100 ∧ off.toNat % 4 = 0 := by
  refine ⟨asks { offset := off, width := .w32, kind := .read } (quick []), rfl, rfl, ?_⟩
  simp only [List.mem_cons, List.not_mem_nil, or_false] at h
  rcases h with rfl | rfl | rfl | rfl | rfl | rfl <;> decide
theorem witness_RegisterWrites (off : Word) (h : off ∈ [0x004, 0x008, 0x00C, 0x010, 0x0FC]) :
    ∃ s : State, s.seq = none ∧ s.host = { offset := off, width := .w32, kind := .write 0xFFFF0003 } :: [] ∧
      off.toNat < 0x100 ∧ off.toNat % 4 = 0 := by
  refine ⟨asks { offset := off, width := .w32, kind := .write 0xFFFF0003 } (quick []), rfl, rfl, ?_⟩
  simp only [List.mem_cons, List.not_mem_nil, or_false] at h
  rcases h with rfl | rfl | rfl | rfl | rfl <;> decide
theorem witness_BufferWriteThenRead : ∃ s : State, s.seq = none ∧ 15 < s.params.bufSize ∧ s.params.wf = true ∧
    s.host = { offset := BitVec.ofNat 32 (0x100 + 15), width := .w8, kind := .write 0xAB } ::
      { offset := BitVec.ofNat 32 (0x100 + 15), width := .w8, kind := .read } :: [] :=
  ⟨{ quick [] with host := [{ offset := 0x10F, width := .w8, kind := .write 0xAB },
      { offset := 0x10F, width := .w8, kind := .read }] }, rfl, by decide, by decide, rfl⟩
theorem witness_BufferRead : ∃ s : State, s.seq = none ∧ 1 < s.params.bufSize ∧ s.params.wf = true ∧
    s.host = { offset := BitVec.ofNat 32 (0x100 + 1), width := .w8, kind := .read } :: [] ∧
    Memory.read s.buf 1 = some 0x00 ∧ Memory.read (quick []).buf 1 = none :=
  ⟨asks { offset := 0x101, width := .w8, kind := .read } filled, rfl, by decide, by decide, rfl, rfl, rfl⟩

theorem witness_GetStatusEffect : ∃ t u, TransferReady 2 true filled ∧ exec (.read 0x41 2 false true) filled = .next t ∧
    exec (.write 0x4A 2 false true) filled = .next u :=
  ⟨_, _, ⟨rfl, by decide, by decide⟩, rfl, rfl⟩
theorem witness_BusyNeverReported : ∃ t, (quick []).Inv ∧ decode 0x00000007 = .command .getStatus ∧
    cmdWrite 0x00000007 (quick []) = .next t := ⟨_, invariant_of_quick [], by decide, rfl⟩
theorem witness_TransferParameterError : (quick []).bufbase.toNat % 65536 + 17 > (quick []).params.bufSize := by decide

theorem ready_filled : TransferReady 2 true filled ∧ BufHolds filled.base [0x20, 0x00] filled := by
  refine ⟨⟨rfl, by decide, by decide⟩, fun i hi => ?_⟩
  simp only [List.length_cons, List.length_nil] at hi
  interval_cases i <;> rfl
theorem immediate_quick (rxs : List Byte) : EnvImmediate 8 (quick rxs) := by
  intro k hk
  interval_cases k <;> rfl
theorem data_quick : EnvData [1, 2, 3, 4, 5] (quick [1, 2, 3, 4, 5]) := by
  intro i hi
  simp only [List.length_cons, List.length_nil] at hi
  interval_cases i <;> rfl
theorem silent_small : EnvSilent 3 (small [false, false, false] []) := by
  intro k hk
  interval_cases k <;> rfl

theorem witness_WriteImmediate : TransferReady 2 true filled ∧ BufHolds filled.base [0x20, 0x00] filled ∧
    1 ≤ filled.params.timeoutLimit ∧ EnvImmediate (2 + 3) filled :=
  ⟨ready_filled.1, ready_filled.2, by decide, fun k hk => immediate_quick [] k (by omega)⟩
theorem witness_WriteFollowsItsProcedure : TransferReady 2 true filled ∧ BufHolds filled.base [0x20, 0x00] filled ∧
    ¬ TransferReady 17 true filled ∧ TransferReady 3 true filled ∧ Memory.read filled.buf (filled.base + 2) = none :=
  ⟨ready_filled.1, ready_filled.2, fun h => absurd h.2.2 (by decide), ⟨rfl, by decide, by decide⟩, rfl⟩
/-- A WRITE of two bytes that times out: its last poll, how many waits for TXE succeeded, the bytes loaded. -/
def partlySent (polls : List Bool) : Option (Word × Option StatusFlag × Nat × List Byte) :=
  (after (exec (.write 0x4A 2 false true) { small polls [] with buf := [(0, 0x20), (1, 0x00)] })).map
    (fun t => (t.result, lastPolled t.trace, t.trace.count (.poll .txe true), t.trace.filterMap Event.loaded))
theorem witness_WriteTimeoutLeavesBytesSent_txe : partlySent [true, true, false, true, false, false, false] =
    some (2, some .txe, 1, [0x94, 0x20]) := by decide
theorem witness_WriteTimeoutLeavesBytesSent_first : partlySent [true, true, false, false, false] =
    some (2, some .txe, 0, [0x94]) := by decide
theorem witness_WriteTimeoutLeavesBytesSent_btf : partlySent [true, true, true, true, false, false, false] =
    some (2, some .btf, 2, [0x94, 0x20, 0x00]) := by decide

theorem witness_ReadOneImmediate : TransferReady 1 true (quick [1, 2, 3, 4, 5]) ∧ 1 ≤ (quick []).params.timeoutLimit ∧
    EnvImmediate 3 (quick [1, 2, 3, 4, 5]) ∧ EnvData [1] (quick [1, 2, 3, 4, 5]) := by
  refine ⟨⟨rfl, by decide, by decide⟩, by decide, fun k hk => immediate_quick _ k (by omega), fun i hi => ?_⟩
  simp only [List.length_cons, List.length_nil] at hi
  interval_cases i; rfl
theorem witness_ReadTwoImmediate : TransferReady 2 true (quick [1, 2, 3, 4, 5]) ∧ EnvImmediate 3 (quick [1, 2, 3, 4, 5]) ∧
    EnvData [1, 2] (quick [1, 2, 3, 4, 5]) := by
  refine ⟨⟨rfl, by decide, by decide⟩, fun k hk => immediate_quick _ k (by omega), fun i hi => ?_⟩
  simp only [List.length_cons, List.length_nil] at hi
  interval_cases i <;> rfl
theorem witness_ReadManyImmediate : 3 ≤ [1, 2, 3, 4, 5].length ∧ TransferReady 5 true (quick [1, 2, 3, 4, 5]) ∧
    1 ≤ (quick []).params.timeoutLimit ∧ EnvImmediate (5 + 1) (quick [1, 2, 3, 4, 5]) ∧
    EnvData [1, 2, 3, 4, 5] (quick [1, 2, 3, 4, 5]) :=
  ⟨by decide, ⟨rfl, by decide, by decide⟩, by decide, fun k hk => immediate_quick _ k (by omega), data_quick⟩
theorem witness_ReadFollowsItsProcedure : TransferReady 16 true (quick []) ∧ ¬ TransferReady 17 true (quick []) :=
  ⟨⟨rfl, by decide, by decide⟩, fun h => absurd h.2.2 (by decide)⟩
theorem witness_ReadStoresBytesInOrder : ∃ t, TransferReady 5 true (quick [1, 2, 3, 4, 5]) ∧
    exec (.read 0x41 5 false true) (quick [1, 2, 3, 4, 5]) = .next t ∧ t.result = 0 :=
  ⟨_, ⟨rfl, by decide, by decide⟩, rfl, by decide⟩
theorem witness_AckControlsBeforeClear : ∃ t g, TransferReady 1 true (quick [1]) ∧
    exec (.read 0x41 1 false true) (quick [1]) = .next t ∧ t.trace = (quick [1]).trace ++ g ∧ Event.clrAddr ∈ g ∧
    Event.rx 1 ∈ g := ⟨_, _, ⟨rfl, by decide, by decide⟩, rfl, rfl, by decide, by decide⟩

/-- A READ of `len` bytes that times out: what its last poll tested, and the ACK and POS it leaves, POS 1 before. -/
def residue (len : Nat) (polls : List Bool) : Option (Word × Option StatusFlag × Bool × Bool) :=
  (after (exec (.read 0x41 len false true) { small polls [1, 2, 3, 4] with pos := true, ack := true })).map
    (fun t => (t.result, lastPolled t.trace, t.ack, t.pos))
theorem witness_TimeoutResidue_sb : residue 1 [false, false, false] = some (2, some .sb, true, true) := by decide
theorem witness_TimeoutResidue_addr : residue 3 [true, false, false, false] = some (2, some .addr, true, true) := by decide
theorem witness_TimeoutResidue_one : residue 1 [true, true, false, false, false] = some (2, some .rxne, false, true) := by
  decide
theorem witness_TimeoutResidue_two : residue 2 [true, true, false, false, false] = some (2, some .btf, false, true) := by
  decide
theorem witness_TimeoutResidue_many : residue 3 [true, true, false, false, false] = some (2, some .btf, true, true) := by
  decide
theorem witness_TimeoutResidue_loop : residue 4 [true, true, false, false, false] = some (2, some .rxne, true, true) := by
  decide
theorem witness_TimeoutResidue_final : residue 3 [true, true, true, false, false, false] =
    some (2, some .rxne, false, true) := by decide

theorem witness_StartNeverAcknowledged : ∃ s : State, TransferReady 2 true s ∧ EnvSilent s.params.timeoutLimit s ∧
    BufHolds s.base [0x20, 0x00] s :=
  ⟨{ small [false, false, false] [] with buf := [(0, 0x20), (1, 0x00)] }, ready_filled.1, silent_small, ready_filled.2⟩
theorem witness_PollsAreBounded : ∃ t, exec (.write 0x4A 2 false true) filled = .next t := ⟨_, rfl⟩
theorem witness_ResponsiveTransfersEndOk : ∃ s : State, TransferReady 2 true s ∧ 1 ≤ 1 ∧ 1 ≤ s.params.timeoutLimit ∧
    EnvResponsive 1 (2 + 3) s ∧ Memory.definedFrom s.buf s.base 2 = true :=
  ⟨filled, ready_filled.1, by decide, by decide, fun p hp => ⟨0, by decide, immediate_quick [] p (by omega)⟩, by decide⟩

theorem witness_StartRecordsLine : ∃ t u, exec (.write 0x4A 2 false true) { filled with line := .held } = .next t ∧
    TransferReady 2 true filled ∧ exec .init filled = .next u ∧ isTransfer .init = false :=
  ⟨_, _, rfl, ready_filled.1, rfl, rfl⟩
theorem witness_StopAssertions : ∃ t u v, exec (.write 0x4A 2 true true) filled = .next t ∧ t.result = 0 ∧
    exec (.write 0x4A 0 false true) filled = .next u ∧ u.result ≠ 0 ∧
    exec (.read 0x41 1 true true) filled = .next v ∧ v.result = 0 ∧ assertsStop filled.params true = false :=
  ⟨_, _, _, rfl, by decide, rfl, by decide, rfl, by decide, by decide⟩
theorem witness_LineAfterCommand : ∃ t u, exec (.write 0x4A 2 true true) filled = .next t ∧ t.result = 0 ∧
    exec (.read 0x41 1 false true) (small [false, false, false] []) = .next u ∧ u.result = 2 :=
  ⟨_, _, rfl, by decide, rfl, by decide⟩
theorem witness_ResultCodesByCommand : ∃ t u, exec (.write 0x4A 2 false true) filled = .next t ∧
    TransferReady 2 true filled ∧ exec (.read 0x41 17 false true) filled = .next u ∧ ¬ TransferReady 17 true filled :=
  ⟨_, _, rfl, ready_filled.1, rfl, fun h => absurd h.2.2 (by decide)⟩
theorem witness_WhatFailuresLeave : ∃ t u v, exec (.write 0x4A 0 false true) filled = .next t ∧ t.result = 1 ∧
    exec .slaveTx filled = .next u ∧ u.result = 3 ∧
    exec (.read 0x41 4 false true) (small [true, true, true, false, false, false] [9]) = .next v ∧ v.result = 2 :=
  ⟨_, _, _, rfl, by decide, rfl, by decide, rfl, by decide⟩
theorem witness_OnlyGetWritesRdata : ∃ (s t : State), exec .init s = .next t ∧ decode 0 = .reservedOpcode 0 ∧ s.seq = none ∧
    s.host = { offset := 0x008, width := .w32, kind := .write 5 } :: [] :=
  ⟨asks { offset := 0x008, width := .w32, kind := .write 5 } (quick []), _, rfl, by decide, rfl, rfl⟩
theorem witness_FrameByCommand : ∃ t u v w, exec (.power .full) filled = .next t ∧
    exec (.read 0x41 1 false true) filled = .next u ∧ exec (.control 1 1) filled = .next v ∧
    ¬ beginsTransfer (.control 1 1) filled ∧ exec (.write 0x4A 17 false true) filled = .next w ∧
    ¬ beginsTransfer (.write 0x4A 17 false true) filled := by
  refine ⟨_, _, _, _, rfl, rfl, rfl, ?_, rfl, ?_⟩
  · rintro ⟨_, _, _, _, h | h⟩ <;> cases h
  · rintro ⟨_, _, _, hr, h | h⟩ <;> cases h
    exact absurd hr.2.2 (by decide)
theorem witness_ControlStateNeverRead :
    agreeButControl filled { filled with enabled := true, ack := true, pos := true, phase := .timedOut } := rfl

end Sys2Proof.Tests
end

section
/-! Family 10_state.md: what reset leaves (R42), and who writes RDATA (R25). RDATA is followed through a command by one
fact about operations (only `setRdata` writes it) and one about commands (only the GET commands hold a `setRdata`). -/

namespace Sys2Proof.Machine

/-! How a whole command ends, whichever it is. -/

/-- A property that every operation of a list keeps holds after the list. -/
theorem runFlow_all_of_mem {P : State → Prop} {ops : List CtrlOp}
    (h : ∀ op ∈ ops, ∀ s, P s → (doOp op s).all P) : ∀ s, P s → (runFlow ops s).all P := by
  induction ops with
  | nil => exact fun s hs => hs
  | cons op ops ih =>
    rw [List.forall_mem_cons] at h
    exact fun s hs => Flow.all_andThen (h.1 s hs) (ih h.2)

/-- The same of a command's run, for a property that does not look at the sequencer position. -/
theorem runOps_all_of_mem {P : State → Prop} {ops : List CtrlOp} {s t : State}
    (h : ∀ op ∈ ops, ∀ u, P u → (doOp op u).all P) (hseq : ∀ u, P u → P { u with seq := none })
    (hs : P s) (ht : runOps ops s = .next t) : P t := by
  have hall := runFlow_all_of_mem h s hs
  rcases runOps_next ht with hf | ⟨u, hf, rfl⟩
  · rw [hf] at hall; exact hall
  · rw [hf] at hall; exact hseq u hall

/-- A command that completes ran its list of operations. -/
theorem exec_next {i : Instr} {s t : State} (h : exec i s = .next t) :
    ∃ ops, commandOps i s = .ok ops ∧ runOps ops s = .next t := by
  rw [exec_eq_runCommand] at h
  cases hops : commandOps i s with
  | ok ops => rw [hops] at h; exact ⟨ops, rfl, h⟩
  | error r => rw [hops] at h; cases h

/-- A reserved opcode ends in UnsupportedError and does nothing else (R65). -/
theorem cmdWrite_reserved {w : Word} {op : BitVec 4} (h : decode w = .reservedOpcode op) (s : State) :
    cmdWrite w s = .next (finish .unsupportedError (acceptCommand w s)) := by
  rw [cmdWrite, h]
  rfl

/-! The host's accesses to the registers. -/

/-- With no command in progress a step takes the host's next access (R55, R56). -/
theorem step_of_host {s : State} {a : HostAccess} {rest : List HostAccess} (hseq : s.seq = none)
    (hhost : s.host = a :: rest) : step s = hostAccess a { s with host := rest } := by
  simp only [step, hseq, hhost]

/-- An aligned 32-bit access below the BUF window is a register access (R46, R47). -/
theorem hostAccess_register {off : Word} {kind : AccessKind} (s : State) (hoff : off.toNat < bufWindow)
    (halign : off.toNat % 4 = 0) :
    hostAccess { offset := off, width := .w32, kind := kind } s = registerAccess off.toNat kind s := by
  simp [hostAccess, hoff, halign]

/-- A host write to RDATA is ignored (R25). -/
theorem registerWrite_rdata (v : Word) (s : State) : registerWrite 0x008 v s = .next s := rfl

/-! Who writes RDATA. -/

/-- Does the operation write RDATA? -/
def CtrlOp.setsRdata : CtrlOp → Bool
  | .setRdata _ => true
  | _ => false

/-- Does no operation of the list write RDATA? -/
def leavesRdata (ops : List CtrlOp) : Bool := ops.all (fun op => !op.setsRdata)

@[simp] theorem leavesRdata_append (xs ys : List CtrlOp) :
    leavesRdata (xs ++ ys) = (leavesRdata xs && leavesRdata ys) :=
  List.all_append

/-- An operation other than `setRdata` leaves RDATA as it was; a wait, however it ends. -/
theorem doOp_rdata {op : CtrlOp} (h : op.setsRdata = false) {w : Word} (s : State) (hs : s.rdata = w) :
    (doOp op s).all (fun t => t.rdata = w) := by
  have wait (f : StatusFlag) (n : Nat) (u : State) (hu : u.rdata = w) :
      (waitLoop f n u).all (fun t => t.rdata = w) :=
    waitLoop_all f (fun _ ht => ht) (fun _ _ ht => ht) (fun _ ht => ht) n u hu
  cases op with
  | txBuf k =>
    simp only [doOp, txBufOp]
    split
    · exact hs
    · trivial
  | rxBuf k =>
    simp only [doOp, rxBufOp]
    split
    · next t ht =>
      obtain ⟨-, rfl⟩ := memWrite_cases ht
      exact hs
    · trivial
  | wait f => exact wait f _ _ hs
  | polling f => exact wait f _ _ hs
  | setRdata v => cases h
  | _ => exact hs

/-- A command none of whose operations writes RDATA leaves it as it was. -/
theorem runOps_rdata {ops : List CtrlOp} {s t : State} (h : leavesRdata ops = true) (ht : runOps ops s = .next t) :
    t.rdata = s.rdata := by
  have hops : ∀ op ∈ ops, op.setsRdata = false := by simpa [leavesRdata] using h
  exact runOps_all_of_mem (P := fun u => u.rdata = s.rdata) (fun op hop => doOp_rdata (hops op hop)) (fun _ hu => hu)
    rfl ht

theorem leavesRdata_initOps (p : Params) : leavesRdata (initOps p) = true := by
  unfold initOps
  split <;> rfl

theorem leavesRdata_powerOps (st : PowerState) : leavesRdata (powerOps st) = true := by
  cases st <;> rfl

theorem leavesRdata_controlOps (option value : Nat) : leavesRdata (controlOps option value) = true := by
  unfold controlOps
  split <;> rfl

@[simp] theorem leavesRdata_transferHead (addr : BitVec 7) (d : Dir) : leavesRdata (transferHead addr d) = true := rfl

@[simp] theorem leavesRdata_stopPoint (stops : Bool) : leavesRdata (stopPoint stops) = true := by
  cases stops <;> rfl

@[simp] theorem leavesRdata_endTransfer (stopped : Bool) : leavesRdata (endTransfer stopped) = true := by
  cases stopped <;> rfl

@[simp] theorem leavesRdata_txLoop (k n : Nat) : leavesRdata (txLoop k n) = true := by
  induction n generalizing k with
  | zero => rfl
  | succ n ih => exact ih (k + 1)

@[simp] theorem leavesRdata_rxLoop (k n : Nat) : leavesRdata (rxLoop k n) = true := by
  induction n generalizing k with
  | zero => rfl
  | succ n ih => exact ih (k + 1)

theorem leavesRdata_writeSequence (addr : BitVec 7) (base len : Nat) (pend : Bool) :
    leavesRdata (writeSequence addr base len pend) = true := by
  simp only [writeSequence, leavesRdata_append, leavesRdata_transferHead, leavesRdata_txLoop, leavesRdata_stopPoint,
    leavesRdata_endTransfer]
  rfl

theorem leavesRdata_readSequence (addr : BitVec 7) (base len : Nat) (stops : Bool) :
    leavesRdata (readSequence addr base len stops) = true := by
  have hproc : leavesRdata (readProcedure base len stops) = true := by
    unfold readProcedure
    split
    · simp only [read1, leavesRdata_append, leavesRdata_stopPoint]
      rfl
    · split
      · simp only [read2, leavesRdata_append, leavesRdata_stopPoint]
        rfl
      · simp only [readN, leavesRdata_append, leavesRdata_rxLoop, leavesRdata_stopPoint]
        rfl
  simp [readSequence, hproc]

/-- Only the three GET commands hold an operation that writes RDATA (R98, R99, R100). -/
theorem leavesRdata_commandOps {i : Instr} {s : State} {ops : List CtrlOp} (h : commandOps i s = .ok ops)
    (hstatus : i ≠ .getStatus) (hversion : i ≠ .getVersion) (hcap : i ≠ .getCapabilities) :
    leavesRdata ops = true := by
  cases i with
  | init => cases h; exact leavesRdata_initOps s.params
  | uninit => cases h; rfl
  | power st => cases h; exact leavesRdata_powerOps st
  | write addr len pend bufv =>
    simp only [commandOps, writeOps] at h
    split at h
    · split at h
      · cases h; exact leavesRdata_writeSequence addr s.base len pend
      · cases h
    · cases h; rfl
  | read addr len pend bufv =>
    cases h
    unfold readOps
    split
    · exact leavesRdata_readSequence addr s.base len _
    · rfl
  | control option value => cases h; exact leavesRdata_controlOps option value
  | getStatus => exact absurd rfl hstatus
  | getVersion => exact absurd rfl hversion
  | getCapabilities => exact absurd rfl hcap
  | slaveTx => cases h; rfl
  | slaveRx => cases h; rfl

/-- Every command but the three GET commands leaves RDATA as it was (R25). -/
theorem exec_rdata {i : Instr} {s t : State} (h : exec i s = .next t) (hstatus : i ≠ .getStatus)
    (hversion : i ≠ .getVersion) (hcap : i ≠ .getCapabilities) : t.rdata = s.rdata := by
  obtain ⟨ops, hops, hrun⟩ := exec_next h
  exact runOps_rdata (leavesRdata_commandOps hops hstatus hversion hcap) hrun

/-- Settles O55: commands by their operations, a reserved opcode by its one `finish`, a host write by the register
map. -/
theorem onlyGetWritesRdata : Obligations.OnlyGetWritesRdata := by
  refine ⟨fun i s t h => exec_rdata h, ?reserved, ?hostWrite, rfl⟩
  case reserved =>
    intro w op s t hw h
    rw [cmdWrite_reserved hw] at h
    cases h
    rfl
  case hostWrite =>
    intro s v rest hseq hhost
    rw [step_of_host hseq hhost, hostAccess_register _ (by decide) (by decide)]
    exact registerWrite_rdata v _

/-- Settles O1: each clause is a field of `State.reset`, and no element of its empty BUF is defined. -/
theorem resetValues : Obligations.ResetValues :=
  ⟨rfl, rfl, rfl, Memory.read_nil, rfl, rfl, rfl, rfl, rfl, rfl, rfl, rfl, rfl, rfl, rfl, rfl⟩

end Sys2Proof.Machine
end

section
/-! Family 20_memory.md: the accesses on which the host is stuck (R47, R48). No command and no admitted access is ever
refused, so the refusals are those that `hostAccess` itself answers, off R47's two kinds of access. -/

namespace Sys2Proof.Machine

/-- A command completes or faults. -/
theorem exec_ne_refused (i : Instr) (s : State) (r : Refusal) : exec i s ≠ .refused r := by
  rw [exec_eq_runCommand]
  cases commandOps i s with
  | ok ops => exact runOps_ne_refused ops s r
  | error f => exact nofun

/-- Every word has a step when it is written to CMD (R65). -/
theorem cmdWrite_ne_refused (w : Word) (s : State) (r : Refusal) : cmdWrite w s ≠ .refused r := by
  cases h : decode w with
  | command i => rw [cmdWrite, h]; exact exec_ne_refused i _ r
  | reservedOpcode op => rw [cmdWrite_reserved h]; exact nofun

/-- Every aligned register offset has a step, reserved ones too (R46). -/
theorem registerAccess_ne_refused (off : Nat) (kind : AccessKind) (s : State) (r : Refusal) :
    registerAccess off kind s ≠ .refused r := by
  cases kind with
  | read => exact nofun
  | write v =>
    simp only [registerAccess, registerWrite]
    split
    · exact cmdWrite_ne_refused v s r
    · exact nofun
    · exact nofun

/-- An access to BUF[k] completes or faults (R62). -/
theorem bufferAccess_ne_refused (k : Nat) (kind : AccessKind) (s : State) (r : Refusal) :
    bufferAccess k kind s ≠ .refused r := by
  cases kind with
  | read => simp only [bufferAccess, bufferRead]; split <;> exact nofun
  | write v => simp only [bufferAccess, bufferWrite]; split <;> exact nofun

/-- The accesses R47 admits: aligned words below the BUF window, bytes inside it. -/
theorem HostAccess.admitted_iff (a : HostAccess) (bufSize : Nat) :
    a.admitted bufSize = true ↔
      (a.offset.toNat < bufWindow ∧ a.width = .w32 ∧ a.offset.toNat % 4 = 0) ∨
      (bufWindow ≤ a.offset.toNat ∧ a.offset.toNat < bufWindow + bufSize ∧ a.width = .w8) := by
  unfold HostAccess.admitted
  split
  · next h => simp [h, Nat.not_le.2 h]
  · next h => simp [h, Nat.not_lt.1 h]

/-- The host is stuck exactly on the accesses that are not admitted (R48). -/
theorem hostAccess_refused_iff (a : HostAccess) (s : State) :
    (∃ r, hostAccess a s = .refused r) ↔ a.admitted s.params.bufSize = false := by
  by_cases hreg : a.offset.toNat < bufWindow
  · by_cases hwidth : a.width = .w32
    · by_cases halign : a.offset.toNat % 4 = 0
      · simp [hostAccess, HostAccess.admitted, hreg, hwidth, halign, registerAccess_ne_refused]
      · simp [hostAccess, HostAccess.admitted, hreg, hwidth, halign]
    · simp [hostAccess, HostAccess.admitted, hreg, hwidth]
  · by_cases hbuf : a.offset.toNat < bufWindow + s.params.bufSize
    · by_cases hwidth : a.width = .w8
      · simp [hostAccess, HostAccess.admitted, hreg, hbuf, hwidth, bufferAccess_ne_refused]
      · simp [hostAccess, HostAccess.admitted, hreg, hbuf, hwidth]
    · simp [hostAccess, HostAccess.admitted, hreg, hbuf]

/-- Settles O20: the step is the host's access, refused exactly when it is not admitted. -/
theorem hostStuckOnlyOnOtherAccesses : Obligations.HostStuckOnlyOnOtherAccesses := by
  intro s a rest hseq hhost
  rw [step_of_host hseq hhost, hostAccess_refused_iff, Bool.eq_false_iff, ne_eq, HostAccess.admitted_iff]
  rfl

end Sys2Proof.Machine
end

section
/-! Family 30_encoding.md: the reserved and the error encodings (R65), and the assembler's table (R69). Reserved bits
play no part for two reasons: the decoder does not read them, and a command does not read its own word, which the
sequencer position holds while it runs. -/

namespace Sys2Proof.Machine

/-! The run of a command does not depend on the sequencer position it starts with. -/

/-- The state with "no command" at the sequencer position (R23). -/
def clearSeq (s : State) : State := { s with seq := none }

/-- A change of the state a command goes on with; an end and a fault stay as they are. -/
def Flow.mapGo (g : State → State) : Flow → Flow
  | .go s => .go (g s)
  | .ended s => .ended s
  | .fault r => .fault r

theorem Flow.mapGo_andThen {g : State → State} {k : State → Flow} (hk : ∀ s, k (g s) = (k s).mapGo g) (x : Flow) :
    (x.mapGo g).andThen k = (x.andThen k).mapGo g := by
  cases x with
  | go s => exact hk s
  | ended s => rfl
  | fault r => rfl

/-- A wait reads nothing of the sequencer position, and its timeout exit clears it (R77, R83). -/
theorem waitLoop_clearSeq (f : StatusFlag) (n : Nat) (s : State) :
    waitLoop f n (clearSeq s) = (waitLoop f n s).mapGo clearSeq := by
  induction n generalizing s with
  | zero => rfl
  | succ n ih =>
    cases hv : s.env.pollAt 0 with
    | true =>
      rw [waitLoop_succ_true f n hv, waitLoop_succ_true f n (s := clearSeq s) hv]
      rfl
    | false =>
      rw [waitLoop_succ_false f n hv, waitLoop_succ_false f n (s := clearSeq s) hv]
      exact ih { poll f s with tb := n }

/-- No operation reads the sequencer position; `finish` clears it (R104). -/
theorem doOp_clearSeq (op : CtrlOp) (s : State) : doOp op (clearSeq s) = (doOp op s).mapGo clearSeq := by
  cases op with
  | txBuf k =>
    have hread : memRead k (clearSeq s) = memRead k s := rfl
    simp only [doOp, txBufOp, hread]
    cases memRead k s <;> rfl
  | rxBuf k =>
    by_cases hk : k < s.params.bufSize
    · simp only [doOp, rxBufOp_ok hk, rxBufOp_ok (s := clearSeq s) hk]
      rfl
    · simp [doOp, rxBufOp, memWrite, clearSeq, Flow.mapGo, hk]
  | wait f => exact waitLoop_clearSeq f _ { s with tb := s.params.timeoutLimit }
  | polling f => exact waitLoop_clearSeq f _ s
  | _ => rfl

theorem runFlow_clearSeq (ops : List CtrlOp) (s : State) :
    runFlow ops (clearSeq s) = (runFlow ops s).mapGo clearSeq := by
  induction ops generalizing s with
  | nil => rfl
  | cons op ops ih => rw [runFlow_cons, runFlow_cons, doOp_clearSeq, Flow.mapGo_andThen ih]

theorem runOps_clearSeq (ops : List CtrlOp) (s : State) : runOps ops (clearSeq s) = runOps ops s := by
  rw [runOps, runFlow_clearSeq, runOps]
  cases runFlow ops s <;> rfl

theorem commandOps_clearSeq (i : Instr) (s : State) : commandOps i (clearSeq s) = commandOps i s := by
  cases i <;> rfl

/-- A command's outcome does not depend on the sequencer position, so not on its own word. -/
theorem exec_clearSeq (i : Instr) (s : State) : exec i (clearSeq s) = exec i s := by
  rw [exec_eq_runCommand, exec_eq_runCommand, commandOps_clearSeq]
  cases commandOps i s with
  | ok ops => exact runOps_clearSeq ops s
  | error r => rfl

/-- A CMD write runs the command it decodes to, whatever the word was. -/
theorem cmdWrite_command {w : Word} {i : Instr} (h : decode w = .command i) (s : State) :
    cmdWrite w s = exec i (clearSeq s) := by
  rw [cmdWrite, h]
  exact (exec_clearSeq i (acceptCommand w s)).symm

/-! What the decoder reads. -/

/-- A word that decodes to a command holds the command's opcode (R63). -/
theorem opField_of_decode {w : Word} {i : Instr} (h : decode w = .command i) : opField w = i.opcode := by
  apply BitVec.eq_of_toNat_eq
  unfold decode at h
  split at h <;> cases h <;> assumption

/-- A mask whose bits of a field are all set leaves the field as it is. -/
theorem extractLsb'_and_of_allOnes {m : Word} {start len : Nat} (w : Word)
    (h : m.extractLsb' start len = BitVec.allOnes len) :
    (w &&& m).extractLsb' start len = w.extractLsb' start len := by
  rw [BitVec.extractLsb'_and, h, BitVec.and_allOnes]

theorem getLsbD_and_of_true {m : Word} {k : Nat} (w : Word) (h : m.getLsbD k = true) :
    (w &&& m).getLsbD k = w.getLsbD k := by
  rw [BitVec.getLsbD_and, h, Bool.and_true]

/-- OP is no reserved bit of any format (R64). -/
theorem opField_clearReserved (i : Instr) (w : Word) : opField (w &&& ~~~ i.reservedMask) = opField w := by
  apply extractLsb'_and_of_allOnes
  cases i <;> (rw [Instr.reservedMask]; rfl)

/-- No field of format T has a reserved bit (R64). -/
theorem transferFields_clearReserved (w : Word) :
    addrField (w &&& ~~~ 0x0000E000) = addrField w ∧ highField (w &&& ~~~ 0x0000E000) = highField w ∧
    pendField (w &&& ~~~ 0x0000E000) = pendField w ∧ bufvField (w &&& ~~~ 0x0000E000) = bufvField w :=
  ⟨extractLsb'_and_of_allOnes w rfl, extractLsb'_and_of_allOnes w rfl, getLsbD_and_of_true w rfl,
    getLsbD_and_of_true w rfl⟩

/-- No field of format C has a reserved bit (R64). -/
theorem controlFields_clearReserved (w : Word) :
    optionField (w &&& ~~~ 0x000000F0) = optionField w ∧ highField (w &&& ~~~ 0x000000F0) = highField w :=
  ⟨extractLsb'_and_of_allOnes w rfl, extractLsb'_and_of_allOnes w rfl⟩

/-- No field of format P has a reserved bit (R64). -/
theorem pstateField_clearReserved (w : Word) : pstateField (w &&& ~~~ 0xFFFFFFC0) = pstateField w :=
  extractLsb'_and_of_allOnes w rfl

theorem opField_eq_of_toNat_mod {w : Word} {op : BitVec 4} (h : w.toNat % 16 = op.toNat) : opField w = op :=
  BitVec.eq_of_toNat_eq ((opField_toNat w).trans h)

theorem decode_power {w : Word} (h : opField w = 0x3) :
    decode w = .command (.power (PowerState.ofBits (pstateField w))) := by
  simp [decode, h]

theorem decode_write {w : Word} (h : opField w = 0x4) :
    decode w = .command (.write (addrField w) (highField w).toNat (pendField w) (bufvField w)) := by
  simp [decode, h]

theorem decode_read {w : Word} (h : opField w = 0x5) :
    decode w = .command (.read (addrField w) (highField w).toNat (pendField w) (bufvField w)) := by
  simp [decode, h]

theorem decode_control {w : Word} (h : opField w = 0x6) :
    decode w = .command (.control (optionField w).toNat (highField w).toNat) := by
  simp [decode, h]

/-- The opcodes 0x0 and 0xC to 0xF are reserved (R63). -/
theorem decode_reserved {w : Word} (h : w.toNat % 16 = 0x0 ∨ 0xC ≤ w.toNat % 16) :
    decode w = .reservedOpcode (opField w) := by
  have hop := opField_toNat w
  unfold decode
  split
  case h_12 => rfl
  all_goals omega

/-- The decoder does not read the reserved bits of the format that OP selects (R65). -/
theorem decode_clearReserved {i : Instr} {w : Word} (h : opField w = i.opcode) :
    decode (w &&& ~~~ i.reservedMask) = decode w := by
  have hclear : opField (w &&& ~~~ i.reservedMask) = i.opcode := (opField_clearReserved i w).trans h
  cases i with
  | power ps => rw [decode_power hclear, decode_power h, Instr.reservedMask, pstateField_clearReserved]
  | write addr len pend bufv =>
    obtain ⟨haddr, hlen, hpend, hbufv⟩ := transferFields_clearReserved w
    rw [decode_write hclear, decode_write h, Instr.reservedMask, haddr, hlen, hpend, hbufv]
  | read addr len pend bufv =>
    obtain ⟨haddr, hlen, hpend, hbufv⟩ := transferFields_clearReserved w
    rw [decode_read hclear, decode_read h, Instr.reservedMask, haddr, hlen, hpend, hbufv]
  | control option value =>
    obtain ⟨hoption, hvalue⟩ := controlFields_clearReserved w
    rw [decode_control hclear, decode_control h, Instr.reservedMask, hoption, hvalue]
  | _ => simp only [decode, hclear, h]; rfl

/-- Two words of a command that differ in its reserved bits only decode to that command (R65). -/
theorem decode_eq_of_clearReserved_eq {v w : Word} {i : Instr} (h : decode w = .command i)
    (hv : v &&& ~~~ i.reservedMask = w &&& ~~~ i.reservedMask) : decode v = .command i := by
  have hop : opField v = i.opcode := by
    rw [← opField_clearReserved i v, hv, opField_clearReserved, opField_of_decode h]
  rw [← decode_clearReserved hop, hv, decode_clearReserved (opField_of_decode h), h]

/-! The encoder. -/

/-- A mask of an appended word is 0 when it is 0 on both parts. -/
theorem append_and_append_eq_zero {m n : Nat} {x a : BitVec m} {y b : BitVec n} (hx : x &&& a = 0) (hy : y &&& b = 0) :
    (x ++ y) &&& (a ++ b) = 0 := by
  rw [BitVec.and_append, hx, hy]
  exact BitVec.zero_append_zero

/-- Format T leaves w[15:13] 0: field by field, either the encoded word or the mask is 0 (R64). -/
theorem encodeT_and_reserved (op : BitVec 4) (addr : BitVec 7) (len : BitVec 16) (pend bufv : Bool) :
    encodeT op addr len pend bufv &&& (0#16 ++ (7#3 ++ 0#13)) = 0 :=
  append_and_append_eq_zero BitVec.and_zero (append_and_append_eq_zero BitVec.zero_and BitVec.and_zero)

/-- Format C leaves w[7:4] 0 (R64). -/
theorem encodeC_and_reserved (op : BitVec 4) (option : BitVec 8) (value : BitVec 16) :
    encodeC op option value &&& (0#16 ++ (0#8 ++ (15#4 ++ 0#4))) = 0 :=
  append_and_append_eq_zero BitVec.and_zero (append_and_append_eq_zero BitVec.and_zero
    (append_and_append_eq_zero BitVec.zero_and BitVec.and_zero))

/-- The assembler's words have the reserved bits of their format 0 (R65). -/
theorem encode_and_reservedMask (i : Instr) : encode i &&& i.reservedMask = 0 := by
  cases i with
  | power ps => cases ps <;> rfl
  | write addr len pend bufv => exact encodeT_and_reserved _ _ _ _ _
  | read addr len pend bufv => exact encodeT_and_reserved _ _ _ _ _
  | control option value => exact encodeC_and_reserved _ _ _
  | _ => rfl

/-! The legal encodings that mean an error. -/

/-- A transfer with BUFV = 0 or LEN = 0 fails its checks (R73). -/
theorem transferChecksPass_eq_false {len : Nat} {bufv : Bool} (s : State) (h : bufv = false ∨ len = 0) :
    transferChecksPass len bufv s = false := by
  rcases h with rfl | rfl <;> simp [transferChecksPass]

/-- A transfer that fails its checks ends in ParameterError and does nothing else (R75). -/
theorem exec_write_checksFail {len : Nat} {bufv : Bool} {s : State} (addr : BitVec 7) (pend : Bool)
    (h : transferChecksPass len bufv s = false) :
    exec (.write addr len pend bufv) s = .next (finish .parameterError s) := by
  rw [exec, execWrite, writeOps, h]
  rfl

theorem exec_read_checksFail {len : Nat} {bufv : Bool} {s : State} (addr : BitVec 7) (pend : Bool)
    (h : transferChecksPass len bufv s = false) :
    exec (.read addr len pend bufv) s = .next (finish .parameterError s) := by
  rw [exec, execRead, readOps, h]
  rfl

/-- CONTROL supports the one pair BUS_SPEED, STANDARD (R101). -/
theorem exec_control_unsupported {option value : Nat} (s : State) (h : ¬ (option = 0x01 ∧ value = 0x0001)) :
    exec (.control option value) s = .next (finish .unsupportedError s) := by
  have hops : controlOps option value = [.finish .unsupportedError] := by simp [controlOps, controlSupported, h]
  rw [exec, execControl, hops]
  rfl

/-- PSTATE 1 is Low, 3 has no name; POWER supports neither (R66, R93). -/
theorem exec_power_unsupported {b : BitVec 2} (s : State) (h : b.toNat = 1 ∨ b.toNat = 3) :
    exec (.power (PowerState.ofBits b)) s = .next (finish .unsupportedError s) := by
  have hops : powerOps (PowerState.ofBits b) = [.finish .unsupportedError] := by
    revert b
    decide
  rw [exec, execPower, hops]
  rfl

/-- Settles O6: the encoder format by format; a command's reserved bits by what the decoder and the command itself do
not read; each error encoding by the one `finish` it decodes to. -/
theorem reservedEncodings : Obligations.ReservedEncodings := by
  refine ⟨encode_and_reservedMask, fun w s => ⟨?opcodes, ?bits, ?power, ?control, ?transfer⟩⟩
  case opcodes =>
    intro h
    exact cmdWrite_reserved (decode_reserved h) s
  case bits =>
    intro v i h hv
    rw [cmdWrite_command h, cmdWrite_command (decode_eq_of_clearReserved_eq h hv)]
  case power =>
    intro hop h
    rw [cmdWrite_command (decode_power (opField_eq_of_toNat_mod hop)),
      exec_power_unsupported _ (by rwa [pstateField_toNat])]
    rfl
  case control =>
    intro hop h
    rw [cmdWrite_command (decode_control (opField_eq_of_toNat_mod hop)),
      exec_control_unsupported _ (by rwa [optionField_toNat, highField_toNat])]
    rfl
  case transfer =>
    intro hop h
    have hfail : transferChecksPass (highField w).toNat (bufvField w) (clearSeq s) = false := by
      rw [← bufvField_toNat, ← highField_toNat, Bool.toNat_eq_zero] at h
      exact transferChecksPass_eq_false _ h
    rcases hop with hop | hop
    · rw [cmdWrite_command (decode_write (opField_eq_of_toNat_mod hop))]
      exact exec_write_checksFail _ _ hfail
    · rw [cmdWrite_command (decode_read (opField_eq_of_toNat_mod hop))]
      exact exec_read_checksFail _ _ hfail

/-- Settles O7: the assembler runs on each line of the table, and format T's word is the number of its fields. -/
theorem encodingTable : Obligations.EncodingTable := by
  refine ⟨rfl, rfl, rfl, rfl, rfl, rfl, rfl, rfl, rfl, rfl, rfl, rfl, rfl, rfl, rfl, rfl, ?_⟩
  intro addr len pend bufv hlen
  have formatT (op : BitVec 4) : (encodeT op addr (BitVec.ofNat 16 len) pend bufv).toNat =
      len * 65536 + bufv.toNat * 4096 + addr.toNat * 32 + pend.toNat * 16 + op.toNat := by
    rw [encodeT_toNat, BitVec.toNat_ofNat, Nat.mod_eq_of_lt hlen]
  exact ⟨formatT 0x4, formatT 0x5⟩

end Sys2Proof.Machine
end

section
/-! Family 40_bus_initializer.md: INIT (R70) and its idempotence (R71). INIT's operations are run in their three parts:
the configuration, the optional ENABLE, and the return to rest that ends in Ok. -/

namespace Sys2Proof.Machine

/-- INIT's first part: the three configuration events, of which PERIPH_RESET clears ACK, POS and ENABLED (R37), then
CFG and INITIALIZED. -/
theorem runFlow_configure (c : Option BusConfig) (s : State) :
    runFlow [.emit .pinsCfg, .emit .periphReset, .emit .clkCfg, .setCfg c, .setInitialized true] s = .go { s with
      trace := s.trace ++ [.pinsCfg, .periphReset, .clkCfg], ack := false, pos := false, enabled := false
      cfg := c, initialized := true } := by
  have htrace : s.trace ++ [.pinsCfg] ++ [.periphReset] ++ [.clkCfg] = s.trace ++ [.pinsCfg, .periphReset, .clkCfg] := by
    simp
  rw [← htrace]
  rfl

/-- INIT's second part: ENABLE, when INIT_ENABLES holds. -/
theorem runFlow_optionalEnable (b : Bool) (s : State) :
    runFlow (if b then [.emit .enable] else []) s = .go { s with
      trace := s.trace ++ (if b then [.enable] else []), enabled := b || s.enabled } := by
  cases b with
  | true => rfl
  | false => simp

/-- INIT's last part: the controller at rest, and Ok. -/
theorem runFlow_rest (s : State) :
    runFlow [.setPhase .idle, .setLine .released, .setBusy false, .setDir .write, .finish .ok] s = .ended { s with
      phase := .idle, line := .released, busy := false, dir := .write, result := 0, seq := none } := rfl

/-- Settles O25: the three parts of INIT, one after the other; ENABLED is INIT_ENABLES because the configuration has
cleared it. -/
theorem initEffect : Obligations.InitEffect := by
  refine ⟨rfl, fun s => ?_⟩
  rw [exec, execInit, runOps, initOps, runFlow_append, runFlow_append, runFlow_configure, Flow.andThen_go,
    runFlow_optionalEnable, Flow.andThen_go, runFlow_rest, Bool.or_false]
  rfl

/-- Settles O26: every element but TRACE that INIT writes depends on the parameters alone, which INIT keeps. -/
theorem initIdempotent : Obligations.InitIdempotent := by
  obtain ⟨-, hinit⟩ := initEffect
  exact fun s => ⟨_, _, hinit s, hinit _, rfl, rfl⟩

end Sys2Proof.Machine
end

section
/-! Family 41_transaction_executor.md: WRITE and READ that fail their checks (R73 to R75), and what a WRITE that times
out has sent (R84). A WRITE's run follows its nominal events (R80) up to the wait that expires; without the polls that
answered false, its events are the part of the nominal ones before that wait, and how much of BUF that part holds is a
fact about lists. -/

namespace Sys2Proof.Machine

/-! The parameter checks. -/

/-- BASE is BUFBASE[15:0] (R26). -/
theorem State.base_eq_mod (s : State) : s.base = s.bufbase.toNat % 65536 := by
  simp [State.base]

/-- The model's checks are those of R73 and R74. -/
theorem transferChecksPass_iff (len : Nat) (bufv : Bool) (s : State) :
    transferChecksPass len bufv s = true ↔ TransferReady len bufv s := by
  simp [transferChecksPass, TransferReady, Nat.pos_iff_ne_zero, and_assoc]

/-- Settles O35: each of the three conditions fails the checks, and a transfer that fails them is one `finish`. -/
theorem transferParameterError : Obligations.TransferParameterError := by
  intro addr len pend bufv s h
  have hfail : transferChecksPass len bufv s = false := by
    rw [Bool.eq_false_iff, ne_eq, transferChecksPass_iff]
    rintro ⟨hbufv, hlen, hrange⟩
    rw [State.base_eq_mod] at hrange
    rcases h with h | h | h
    · exact Bool.false_ne_true (h.symm.trans hbufv)
    · omega
    · omega
  exact ⟨exec_write_checksFail addr pend hfail, exec_read_checksFail addr pend hfail⟩

end Sys2Proof.Machine

namespace Sys2Proof.Claims

open Sys2Proof.Machine

/-! Events that follow a nominal list. -/

theorem Follows.append {limit : Nat} {n g m k : List Event} {ok : Bool} (h : Follows limit n g true)
    (h' : Follows limit m k ok) : Follows limit (n ++ m) (g ++ k) ok := by
  generalize hb : true = b at h
  induction h with
  | done => exact h'
  | act e n g _ he _ ih => exact .act e _ _ _ he (ih hb)
  | waited f j n g _ hj _ ih =>
    rw [List.append_assoc]
    exact .waited f j _ _ _ hj (ih hb)
  | expired f n => cases hb

/-- After a wait that expired nothing follows (R83). -/
theorem Follows.append_of_expired {limit : Nat} {n g : List Event} (h : Follows limit n g false) (m : List Event) :
    Follows limit (n ++ m) g false := by
  generalize hb : false = b at h
  induction h with
  | done => cases hb
  | act e n g _ he _ ih => cases hb; exact .act e _ _ _ he (ih rfl)
  | waited f j n g _ hj _ ih => cases hb; exact .waited f j _ _ _ hj (ih rfl)
  | expired f n => exact .expired f _

/-- The events but for the polls that answered false. -/
def successes (g : List Event) : List Event := g.filter (fun e => !e.isFailedPoll)

theorem successes_append (g k : List Event) : successes (g ++ k) = successes g ++ successes k := List.filter_append ..

theorem successes_failedPolls (f : StatusFlag) (n : Nat) : successes (List.replicate n (.poll f false)) = [] := by
  simp [successes, Event.isFailedPoll]

theorem successes_cons_of_not_poll {e : Event} (h : e.isPoll = false) (g : List Event) :
    successes (e :: g) = e :: successes g := by
  cases e with
  | poll f v => cases h
  | _ => rfl

theorem loaded_successes (g : List Event) : (successes g).filterMap Event.loaded = g.filterMap Event.loaded := by
  rw [successes, List.filterMap_filter]
  congr 1
  funext e
  cases e with
  | poll f v => exact ite_self _
  | _ => rfl

theorem count_successes (f : StatusFlag) (g : List Event) :
    (successes g).count (.poll f true) = g.count (.poll f true) :=
  List.count_filter rfl

theorem lastPolled_append (g k : List Event) : lastPolled (g ++ k) = (lastPolled k).or (lastPolled g) := by
  simp [lastPolled, List.getLast?_append]

theorem lastPolled_cons_of_not_poll {e : Event} (h : e.isPoll = false) (g : List Event) :
    lastPolled (e :: g) = lastPolled g := by
  cases e with
  | poll f v => cases h
  | _ => rfl

theorem lastPolled_failedPolls (f : StatusFlag) (n : Nat) :
    lastPolled (List.replicate n (.poll f false)) = if n = 0 then none else some f := by
  cases n with
  | zero => rfl
  | succ n => rw [List.replicate_succ', lastPolled_append]; rfl

/-- When a wait expires, the successes are the nominal events before it, and its flag is the last one polled; with a
limit of 0 nothing has been polled. -/
theorem Follows.expired_split {limit : Nat} {n g : List Event} (h : Follows limit n g false) :
    ∃ f rest, n = successes g ++ .poll f true :: rest ∧ lastPolled g = if limit = 0 then none else some f := by
  generalize hb : false = b at h
  induction h with
  | done => cases hb
  | act e n g _ he _ ih =>
    obtain ⟨f, rest, rfl, hlast⟩ := ih hb
    exact ⟨f, rest, by rw [successes_cons_of_not_poll he, List.cons_append],
      (lastPolled_cons_of_not_poll he g).trans hlast⟩
  | waited f' j n g _ hj _ ih =>
    obtain ⟨f, rest, rfl, hlast⟩ := ih hb
    refine ⟨f, rest, ?_, ?_⟩
    · rw [successes_append, successes_failedPolls]
      rfl
    · rw [if_neg (by omega)] at hlast ⊢
      rw [lastPolled_append, ← List.singleton_append, lastPolled_append, hlast]
      rfl
  | expired f n => exact ⟨f, n, by rw [successes_failedPolls]; rfl, lastPolled_failedPolls f limit⟩

/-! The nominal events of a WRITE, up to one of its waits. -/

/-- A list that begins with `a`, split at an element that is not in `a`. -/
theorem split_after_of_notMem {α : Type} {p : α} {a b m rest : List α} (hp : p ∉ a) (h : a ++ b = m ++ p :: rest) :
    ∃ m', m = a ++ m' ∧ b = m' ++ p :: rest := by
  induction a generalizing m with
  | nil => exact ⟨m, rfl, h⟩
  | cons x a ih =>
    obtain ⟨hx, ha⟩ := not_or.1 (mt List.mem_cons.2 hp)
    cases m with
    | nil => exact absurd (List.cons.inj h).1.symm hx
    | cons y m =>
      obtain ⟨rfl, hrest⟩ := List.cons.inj h
      obtain ⟨m', rfl, hb⟩ := ih ha hrest
      exact ⟨m', rfl, hb⟩

/-- The nominal events of a WRITE's data bytes (R80). -/
def dataEvents (data : List Byte) : List Event := data.flatMap (fun b => [.poll .txe true, .tx b])

theorem dataEvents_cons (b : Byte) (data : List Byte) :
    dataEvents (b :: data) = .poll .txe true :: .tx b :: dataEvents data := rfl

theorem loaded_dataEvents (data : List Byte) : (dataEvents data).filterMap Event.loaded = data := by
  induction data with
  | nil => rfl
  | cons b data ih => exact congrArg (b :: ·) ih

/-- Before a wait for TXE stand as many data bytes as waits for TXE (R84). -/
theorem dataEvents_split_txe {data : List Byte} {tail m rest : List Event} (htail : .poll .txe true ∉ tail)
    (h : dataEvents data ++ tail = m ++ .poll .txe true :: rest) :
    m.count (.poll .txe true) < data.length ∧
      m.filterMap Event.loaded = data.take (m.count (.poll .txe true)) := by
  induction data generalizing m with
  | nil =>
    have hmem : Event.poll .txe true ∈ tail := by
      rw [show tail = m ++ .poll .txe true :: rest from h]
      simp
    exact absurd hmem htail
  | cons b data ih =>
    rw [dataEvents_cons] at h
    rcases m with _ | ⟨e₁, _ | ⟨e₂, m⟩⟩
    · simp
    · cases (List.cons.inj (List.cons.inj h).2).1
    · obtain ⟨rfl, hcons⟩ := List.cons.inj h
      obtain ⟨rfl, hrest⟩ := List.cons.inj hcons
      obtain ⟨hlt, hload⟩ := ih hrest
      have hcount : (Event.poll .txe true :: .tx b :: m).count (.poll .txe true) = m.count (.poll .txe true) + 1 := by
        simp
      rw [hcount, List.take_succ_cons, ← hload]
      exact ⟨Nat.succ_lt_succ hlt, rfl⟩

/-- The events of a WRITE up to its data bytes (R80). -/
def writeOpening (l : Line) (addr : BitVec 7) : List Event := openingEvents l addr 0 ++ [.clrAddr]

theorem loaded_writeOpening (l : Line) (addr : BitVec 7) :
    (writeOpening l addr).filterMap Event.loaded = [BitVec.ofNat 8 (addr.toNat * 2)] := rfl

theorem writeEvents_eq (l : Line) (addr : BitVec 7) (data : List Byte) (stops : Bool) :
    writeEvents l addr data stops =
      writeOpening l addr ++ (dataEvents data ++ (.poll .btf true :: stopEvents stops)) := by
  simp [writeEvents, writeOpening, dataEvents]

/-- What a WRITE has loaded when it waits for TXE (R84). -/
theorem writeEvents_split_txe {l : Line} {addr : BitVec 7} {data : List Byte} {stops : Bool} {m rest : List Event}
    (h : writeEvents l addr data stops = m ++ .poll .txe true :: rest) :
    m.count (.poll .txe true) < data.length ∧ m.filterMap Event.loaded =
      BitVec.ofNat 8 (addr.toNat * 2) :: data.take (m.count (.poll .txe true)) := by
  rw [writeEvents_eq] at h
  obtain ⟨m', rfl, h'⟩ := split_after_of_notMem (a := writeOpening l addr) (by simp [writeOpening, openingEvents]) h
  have htail : Event.poll .txe true ∉ Event.poll .btf true :: stopEvents stops := by cases stops <;> simp [stopEvents]
  obtain ⟨hlt, hload⟩ := dataEvents_split_txe htail h'
  have hcount : (writeOpening l addr ++ m').count (.poll .txe true) = m'.count (.poll .txe true) := by
    simp [writeOpening, openingEvents]
  rw [hcount, List.filterMap_append, loaded_writeOpening, hload]
  exact ⟨hlt, rfl⟩

/-- What a WRITE has loaded when it waits for BTF: every data byte (R84). -/
theorem writeEvents_split_btf {l : Line} {addr : BitVec 7} {data : List Byte} {stops : Bool} {m rest : List Event}
    (h : writeEvents l addr data stops = m ++ .poll .btf true :: rest) :
    m.filterMap Event.loaded = BitVec.ofNat 8 (addr.toNat * 2) :: data := by
  rw [writeEvents_eq] at h
  obtain ⟨m₁, rfl, h₁⟩ := split_after_of_notMem (a := writeOpening l addr) (by simp [writeOpening, openingEvents]) h
  have hdata : Event.poll .btf true ∉ dataEvents data := by simp [dataEvents]
  obtain ⟨m₂, rfl, h₂⟩ := split_after_of_notMem hdata h₁
  have hload : m₂.filterMap Event.loaded = [] := by
    have htail : (Event.poll .btf true :: stopEvents stops).filterMap Event.loaded = [] := by cases stops <;> rfl
    rw [h₂, List.filterMap_append, List.append_eq_nil_iff] at htail
    exact htail.1
  rw [List.filterMap_append, List.filterMap_append, loaded_writeOpening, loaded_dataEvents, hload, List.append_nil]
  rfl

end Sys2Proof.Claims

namespace Sys2Proof.Machine

open Sys2Proof.Claims

/-! A WRITE's run follows its nominal events. -/

/-- A flow that began in `s` and follows the nominal events `n`: it goes on when all of them have happened, BUF and the
parameters as they were, or it is over with TimeoutError when a wait has expired (R77, R83). -/
inductive Flow.Along (s : State) (n : List Event) : Flow → Prop where
  | go (t : State) (g : List Event) (follows : Follows s.params.timeoutLimit n g true)
      (trace : t.trace = s.trace ++ g) (params : t.params = s.params) (buf : t.buf = s.buf) : Along s n (.go t)
  | ended (t : State) (g : List Event) (follows : Follows s.params.timeoutLimit n g false)
      (trace : t.trace = s.trace ++ g) (result : t.result = 2) : Along s n (.ended t)

theorem Flow.Along.andThen {s : State} {n m : List Event} {x : Flow} {k : State → Flow} (hx : x.Along s n)
    (hk : ∀ t : State, t.params = s.params → t.buf = s.buf → (k t).Along t m) : (x.andThen k).Along s (n ++ m) := by
  cases hx with
  | ended t g hg ht hr => exact .ended t g (hg.append_of_expired m) ht hr
  | go t g hg ht hp hb =>
    have hkt := hk t hp hb
    rw [Flow.andThen_go]
    generalize k t = y at hkt
    cases hkt with
    | go u g' hg' hu hp' hb' =>
      rw [hp] at hg'
      exact .go u (g ++ g') (hg.append hg') (by rw [hu, ht, List.append_assoc]) (hp'.trans hp) (hb'.trans hb)
    | ended u g' hg' hu hr =>
      rw [hp] at hg'
      exact .ended u (g ++ g') (hg.append hg') (by rw [hu, ht, List.append_assoc]) hr

/-- Lists that follow their nominal events do so one after the other. -/
theorem runFlow_append_along {s : State} {n m : List Event} {xs ys : List CtrlOp} (hx : (runFlow xs s).Along s n)
    (hy : ∀ t : State, t.params = s.params → t.buf = s.buf → (runFlow ys t).Along t m) :
    (runFlow (xs ++ ys) s).Along s (n ++ m) := by
  rw [runFlow_append]
  exact hx.andThen hy

/-- What goes on without an event of its own. -/
theorem Flow.Along.silent {s t : State} (htrace : t.trace = s.trace) (hparams : t.params = s.params)
    (hbuf : t.buf = s.buf) : (Flow.go t).Along s [] :=
  .go t [] .done (by rw [htrace, List.append_nil]) hparams hbuf

/-- What goes on with one event that is no poll. -/
theorem Flow.Along.event {s t : State} {e : Event} (he : e.isPoll = false) (htrace : t.trace = s.trace ++ [e])
    (hparams : t.params = s.params) (hbuf : t.buf = s.buf) : (Flow.go t).Along s [e] :=
  .go t [e] (.act e [] [] true he .done) htrace hparams hbuf

/-- A wait follows one poll that answers true (R77). -/
theorem waitFor_along (f : StatusFlag) (s : State) : (waitFor f s).Along s [.poll f true] := by
  rcases waitFor_cases f s with ⟨j, hj, -, -, he⟩ | ⟨-, he⟩
  · rw [he]
    exact .go _ _ (.waited f j [] [] true hj .done) rfl rfl rfl
  · rw [he]
    exact .ended _ _ (.expired f []) rfl rfl

theorem runFlow_wait_along (f : StatusFlag) (s : State) : (runFlow [.wait f] s).Along s [.poll f true] :=
  (waitFor_along f s).andThen (fun _ _ _ => .silent rfl rfl rfl)

/-- The address byte as a number: ADDR*2 + d (R66). -/
theorem addressByte_eq (addr : BitVec 7) (d : Dir) :
    addressByte addr d = BitVec.ofNat 8 (addr.toNat * 2 + d.bit.toNat) := by
  apply BitVec.eq_of_toNat_eq
  have haddr := addr.isLt
  have hbit := d.bit.isLt
  rw [addressByte, BitVec.toNat_append, ← Nat.shiftLeft_add_eq_or_of_lt hbit, Nat.shiftLeft_eq, BitVec.toNat_ofNat]
  omega

/-- START and the address phase: two waits, and what stands before, between and after them (R78, R79). -/
theorem runFlow_transferHead_along (addr : BitVec 7) (d : Dir) (s : State) :
    (runFlow (transferHead addr d) s).Along s (openingEvents s.line addr d.bit.toNat) := by
  have hstart : (runFlow [.setDir d, .setBusy true, .start] s).Along s [.start s.line] := .event rfl rfl rfl rfl
  have haddress (t : State) : (runFlow [.emit (.tx (addressByte addr d)), .setPhase .addressPending] t).Along t
      [.tx (BitVec.ofNat 8 (addr.toNat * 2 + d.bit.toNat))] := by
    rw [addressByte_eq]
    exact .event rfl rfl rfl rfl
  have hacked (t : State) : (runFlow [.setPhase .addressAcked] t).Along t [] := .silent rfl rfl rfl
  have hhead := runFlow_append_along hstart fun t _ _ =>
    runFlow_append_along (runFlow_wait_along .sb t) fun t _ _ =>
    runFlow_append_along (haddress t) fun t _ _ =>
    runFlow_append_along (runFlow_wait_along .addr t) fun t _ _ => hacked t
  exact hhead

theorem BufHolds.of_buf_eq {k : Nat} {data : List Byte} {s t : State} (h : BufHolds k data s) (hbuf : t.buf = s.buf) :
    BufHolds k data t := by
  rwa [BufHolds, hbuf]

theorem BufHolds.head {k : Nat} {b : Byte} {data : List Byte} {s : State} (h : BufHolds k (b :: data) s) :
    Memory.read s.buf k = some b :=
  h 0 (Nat.succ_pos _)

theorem BufHolds.tail {k : Nat} {b : Byte} {data : List Byte} {s : State} (h : BufHolds k (b :: data) s) :
    BufHolds (k + 1) data s := by
  intro i hi
  rw [Nat.add_right_comm]
  exact h (i + 1) (Nat.succ_lt_succ hi)

theorem doOp_txBuf_along {k : Nat} {b : Byte} {s : State} (hk : k < s.params.bufSize)
    (h : Memory.read s.buf k = some b) : (doOp (.txBuf k) s).Along s [.tx b] := by
  rw [doOp, txBufOp_ok hk h]
  exact .event rfl rfl rfl rfl

/-- The byte loop sends what BUF holds (R50, R80). -/
theorem runFlow_txLoop_along {k : Nat} {data : List Byte} {s : State} (hrange : k + data.length ≤ s.params.bufSize)
    (hbuf : BufHolds k data s) : (runFlow (txLoop k data.length) s).Along s (dataEvents data) := by
  induction data generalizing k s with
  | nil => exact .silent rfl rfl rfl
  | cons b data ih =>
    rw [List.length_cons] at hrange
    refine runFlow_append_along (runFlow_wait_along .txe s) fun t hpt hbt => ?_
    refine (doOp_txBuf_along (by rw [hpt]; omega) ?_).andThen fun u hpu hbu => ?_
    · rw [hbt, hbuf.head]
    · exact ih (by rw [hpu, hpt]; omega) (hbuf.tail.of_buf_eq (hbu.trans hbt))

/-- A WRITE that passes its checks over bytes that are defined runs its sequence (R80). -/
theorem exec_write_ready {data : List Byte} {s : State} (addr : BitVec 7) (pend : Bool)
    (hready : TransferReady data.length true s) (hbuf : BufHolds s.base data s) :
    exec (.write addr data.length pend true) s = runOps (writeSequence addr s.base data.length pend) s := by
  have hdef : Memory.definedFrom s.buf s.base data.length = true := by
    rw [Memory.definedFrom_iff]
    intro i hi
    rw [hbuf i hi, List.getElem?_eq_getElem hi]
    exact Option.some_ne_none _
  rw [exec, execWrite, writeOps, if_pos ((transferChecksPass_iff _ _ _).2 hready), if_pos hdef, runCommand_ok]

/-- A WRITE up to its `end_transfer` (R80). -/
def writeBody (addr : BitVec 7) (base len : Nat) (pend : Bool) : List CtrlOp :=
  transferHead addr .write ++ [.emit .clrAddr, .setPhase .transferring] ++ txLoop base len ++ [.wait .btf] ++
    stopPoint (!pend)

theorem writeSequence_eq (addr : BitVec 7) (base len : Nat) (pend : Bool) :
    writeSequence addr base len pend = writeBody addr base len pend ++ endTransfer (!pend) := rfl

theorem runFlow_stopPoint_along (stops : Bool) (s : State) :
    (runFlow (stopPoint stops) s).Along s (stopEvents stops) := by
  cases stops with
  | true => exact .event rfl rfl rfl rfl
  | false => exact .silent rfl rfl rfl

/-- A WRITE up to its `end_transfer` follows the nominal events (R80). -/
theorem runFlow_writeBody_along {data : List Byte} {s : State} (addr : BitVec 7) (pend : Bool)
    (hready : TransferReady data.length true s) (hbuf : BufHolds s.base data s) :
    (runFlow (writeBody addr s.base data.length pend) s).Along s (writeEvents s.line addr data (!pend)) := by
  obtain ⟨-, -, hrange⟩ := hready
  have hopening : (runFlow (transferHead addr .write ++ [.emit .clrAddr, .setPhase .transferring]) s).Along s
      (writeOpening s.line addr) :=
    runFlow_append_along (runFlow_transferHead_along addr .write s) fun _ _ _ => .event rfl rfl rfl rfl
  have hdata := runFlow_append_along hopening fun t hp hb =>
    runFlow_txLoop_along (s := t) (by rwa [hp]) (hbuf.of_buf_eq hb)
  have hdrained := runFlow_append_along hdata fun t _ _ => runFlow_wait_along .btf t
  exact runFlow_append_along hdrained fun t _ _ => runFlow_stopPoint_along (!pend) t

/-- `end_transfer` ends the command with Ok (R81). -/
theorem runFlow_endTransfer (stopped : Bool) (s : State) :
    ∃ t, runFlow (endTransfer stopped) s = .ended t ∧ t.result = 0 := by
  cases stopped <;> exact ⟨_, rfl, rfl⟩

/-- A WRITE that ends with TimeoutError follows its nominal events up to a wait that expires (R80, R83). -/
theorem exec_write_timeout {data : List Byte} {s t : State} {addr : BitVec 7} {pend : Bool}
    (hready : TransferReady data.length true s) (hbuf : BufHolds s.base data s)
    (h : exec (.write addr data.length pend true) s = .next t) (hresult : t.result = 2) :
    ∃ g, t.trace = s.trace ++ g ∧ Follows s.params.timeoutLimit (writeEvents s.line addr data (!pend)) g false := by
  have hbody := runFlow_writeBody_along addr pend hready hbuf
  rw [exec_write_ready addr pend hready hbuf, writeSequence_eq, runOps, runFlow_append] at h
  generalize runFlow (writeBody addr s.base data.length pend) s = x at hbody h
  cases hbody with
  | go u g _ _ _ _ =>
    obtain ⟨v, hv, hok⟩ := runFlow_endTransfer (!pend) u
    rw [Flow.andThen_go, hv] at h
    cases h
    rw [hok] at hresult
    cases hresult
  | ended u g hg htrace _ =>
    cases h
    exact ⟨g, htrace, hg⟩

/-- Settles O39: the wait that expired splits the nominal events, and the part before it says what was sent. -/
theorem writeTimeoutLeavesBytesSent : Obligations.WriteTimeoutLeavesBytesSent := by
  intro addr data pend s t hready hbuf h hresult
  obtain ⟨g, htrace, hg⟩ := exec_write_timeout hready hbuf h hresult
  obtain ⟨f, rest, hsplit, hlast⟩ := hg.expired_split
  have hflag (f' : StatusFlag) (h : lastPolled g = some f') : f = f' := by
    rw [hlast] at h
    split at h
    · cases h
    · exact Option.some.inj h
  refine ⟨g, htrace, fun htxe => ?_, fun hbtf => ?_⟩
  · obtain rfl := hflag .txe htxe
    obtain ⟨hlt, hload⟩ := writeEvents_split_txe hsplit
    rw [loaded_successes, count_successes] at hload
    rw [count_successes] at hlt
    exact ⟨g.count (.poll .txe true) + 1, by omega, hlt, rfl, hload⟩
  · obtain rfl := hflag .btf hbtf
    rw [← loaded_successes]
    exact writeEvents_split_btf hsplit

end Sys2Proof.Machine
end

section
/-! Family 42_read_sequencer.md: the acknowledge controls of a READ (R87). The order holds because every READ runs the
same list up to CLR_ADDR: its opening, which neither clears the address status nor reads a byte and goes on only when
the wait for ADDR has succeeded, then the acknowledge controls for its length, then CLR_ADDR. -/

namespace Sys2Proof.Claims

open Sys2Proof.Machine

/-- When every wait has succeeded, the successes are the nominal events. -/
theorem Follows.successes_eq {limit : Nat} {n g : List Event} (h : Follows limit n g true) : successes g = n := by
  generalize hb : true = b at h
  induction h with
  | done => rfl
  | act e n g _ he _ ih => rw [successes_cons_of_not_poll he, ih hb]
  | waited f j n g _ _ _ ih =>
    rw [successes_append, successes_failedPolls, ← ih hb]
    rfl
  | expired f n => cases hb

/-- An event that follows a nominal list is a poll that answered false or one of the list. -/
theorem Follows.mem_nominal {limit : Nat} {n g : List Event} {ok : Bool} {e : Event} (h : Follows limit n g ok)
    (he : e ∈ g) (hpoll : e.isFailedPoll = false) : e ∈ n := by
  have hsucc : e ∈ successes g := List.mem_filter.2 ⟨he, by rw [hpoll]; rfl⟩
  cases ok with
  | true => rwa [h.successes_eq] at hsucc
  | false =>
    obtain ⟨f, rest, rfl, -⟩ := h.expired_split
    exact List.mem_append_left _ hsucc

/-- The opening of a transfer does not clear the address status. -/
theorem Follows.clrAddr_notMem_opening {limit d : Nat} {l : Line} {addr : BitVec 7} {g : List Event} {ok : Bool}
    (h : Follows limit (openingEvents l addr d) g ok) : Event.clrAddr ∉ g := fun hmem => by
  simpa [openingEvents] using h.mem_nominal hmem rfl

/-- The opening of a transfer reads no byte. -/
theorem Follows.rx_notMem_opening {limit d : Nat} {l : Line} {addr : BitVec 7} {g : List Event} {ok : Bool}
    (h : Follows limit (openingEvents l addr d) g ok) (b : Byte) : Event.rx b ∉ g := fun hmem => by
  simpa [openingEvents] using h.mem_nominal hmem rfl

/-- A transfer whose opening has succeeded has polled ADDR with success (R79). -/
theorem Follows.addr_mem_opening {limit d : Nat} {l : Line} {addr : BitVec 7} {g : List Event}
    (h : Follows limit (openingEvents l addr d) g true) : Event.poll .addr true ∈ g := by
  have hsucc : Event.poll .addr true ∈ successes g := by rw [h.successes_eq]; simp [openingEvents]
  exact (List.mem_filter.1 hsucc).1

/-- The event that sets the acknowledge controls of a READ of `len` bytes (R87). -/
def ackControl (len : Nat) : Event := if len = 1 then .ackOff else if len = 2 then .posOnAckOff else .ackOn

theorem ackControl_ne (len : Nat) : ackControl len ≠ .clrAddr ∧ ∀ b, ackControl len ≠ .rx b := by
  unfold ackControl
  split
  · exact ⟨nofun, nofun⟩
  · split <;> exact ⟨nofun, nofun⟩

end Sys2Proof.Claims

namespace Sys2Proof.Machine

open Sys2Proof.Claims

/-- Each of the three procedures begins with the acknowledge controls and CLR_ADDR (R88, R89, R90). -/
theorem readProcedure_eq (base len : Nat) (stops : Bool) :
    ∃ rest, readProcedure base len stops = .emit (ackControl len) :: .emit .clrAddr :: rest := by
  unfold readProcedure ackControl
  split
  · exact ⟨_, rfl⟩
  · split <;> exact ⟨_, rfl⟩

/-- A READ that passes its checks: the opening, the acknowledge controls, CLR_ADDR, and the rest (R86, R87). -/
theorem exec_read_ready {len : Nat} {s : State} (addr : BitVec 7) (pend : Bool) (hready : TransferReady len true s) :
    ∃ rest, exec (.read addr len pend true) s =
      runOps (transferHead addr .read ++ .emit (ackControl len) :: .emit .clrAddr :: rest) s := by
  obtain ⟨rest, hrest⟩ := readProcedure_eq s.base len (readStops s.params pend)
  refine ⟨rest ++ endTransfer (readStops s.params pend), ?_⟩
  rw [exec, execRead, readOps, if_pos ((transferChecksPass_iff _ _ _).2 hready), readSequence, hrest, List.append_assoc]
  rfl

theorem runOps_append_of_go {xs ys : List CtrlOp} {s u : State} (h : runFlow xs s = .go u) :
    runOps (xs ++ ys) s = runOps ys u := by
  rw [runOps, runFlow_append, h, Flow.andThen_go, runOps]

theorem runOps_append_of_ended {xs ys : List CtrlOp} {s t : State} (h : runFlow xs s = .ended t) :
    runOps (xs ++ ys) s = .next t := by
  rw [runOps, runFlow_append, h, Flow.andThen_ended]

theorem runOps_emit_cons (e : Event) (ops : List CtrlOp) (s : State) :
    runOps (.emit e :: ops) s = runOps ops (emit e s) := rfl

/-- What a READ that passes its checks adds to TRACE: its opening, and nothing more when a wait of it expires; else
the acknowledge controls and CLR_ADDR come right after it (R87). -/
theorem exec_read_trace {addr : BitVec 7} {len : Nat} {pend : Bool} {s t : State} (hready : TransferReady len true s)
    (h : exec (.read addr len pend true) s = .next t) :
    (∃ g, Follows s.params.timeoutLimit (openingEvents s.line addr 1) g false ∧ t.trace = s.trace ++ g) ∨
    (∃ g r, Follows s.params.timeoutLimit (openingEvents s.line addr 1) g true ∧
      t.trace = s.trace ++ (g ++ ackControl len :: .clrAddr :: r)) := by
  obtain ⟨rest, hexec⟩ := exec_read_ready addr pend hready
  rw [hexec] at h
  have halong := runFlow_transferHead_along addr .read s
  cases hhead : runFlow (transferHead addr .read) s with
  | go u =>
    rw [runOps_append_of_go hhead, runOps_emit_cons, runOps_emit_cons] at h
    rw [hhead] at halong
    cases halong with
    | go _ g hfollows htrace _ _ =>
      obtain ⟨-, r, hr⟩ := runOps_keeps h
      refine .inr ⟨g, r, hfollows, ?_⟩
      rw [← hr, emit_trace, emit_trace, htrace]
      simp
  | ended u =>
    rw [runOps_append_of_ended hhead] at h
    rw [hhead] at halong
    cases h
    cases halong with
    | ended _ g hfollows htrace _ => exact .inl ⟨g, hfollows, htrace⟩
  | fault r =>
    rw [hhead] at halong
    cases halong

/-- Settles O45: neither CLR_ADDR nor an RX stands in the opening, so both come after the acknowledge controls. -/
theorem ackControlsBeforeClear : Obligations.AckControlsBeforeClear := by
  intro addr len pend s t hready h
  rcases exec_read_trace hready h with ⟨g, hfollows, htrace⟩ | ⟨g, r, hfollows, htrace⟩
  · refine ⟨g, htrace, fun before after hsplit => ?_, fun before after b hsplit => ?_⟩
    · exact absurd (by simp [hsplit]) hfollows.clrAddr_notMem_opening
    · exact absurd (by simp [hsplit]) (hfollows.rx_notMem_opening b)
  · obtain ⟨hackClr, hackRx⟩ := ackControl_ne len
    refine ⟨_, htrace, fun before after hsplit => ?_, fun before after b hsplit => ?_⟩
    · have hnot : Event.clrAddr ∉ g ++ [ackControl len] := by
        simp [hfollows.clrAddr_notMem_opening, hackClr.symm]
      obtain ⟨q, rfl, -⟩ := split_after_of_notMem hnot (b := .clrAddr :: r) (by simpa using hsplit)
      exact ⟨g, q, List.append_assoc .., hfollows.addr_mem_opening⟩
    · have hnot : Event.rx b ∉ g ++ [ackControl len, .clrAddr] := by
        simp [hfollows.rx_notMem_opening b, (hackRx b).symm]
      obtain ⟨q, rfl, -⟩ := split_after_of_notMem hnot (b := r) (by simpa using hsplit)
      simp

end Sys2Proof.Machine
end

section
/-! Family 43_power_lifecycle.md: UNINIT (R94), POWER (R93) and the slave-mode stubs (R95, R96). ENABLED follows the
event a command emits (R37); what a command does not support is its one `finish` (R104). -/

namespace Sys2Proof.Machine

theorem runOps_finish (rc : ResultCode) (s : State) : runOps [.finish rc] s = .next (finish rc s) := rfl

/-- UNINIT after its DISABLE: the configuration forgotten, the controller at rest, and Ok. -/
theorem runOps_deconfigure (s : State) :
    runOps [.setInitialized false, .setCfg none, .setAck false, .setPos false, .setPhase .idle, .setLine .released,
      .finish .ok] s = .next { s with
        initialized := false, cfg := none, ack := false, pos := false, phase := .idle, line := .released
        result := 0, seq := none } := rfl

theorem exec_power_full (s : State) : exec (.power .full) s = .next (finish .ok (emit .enable s)) := by
  rw [exec, execPower, powerOps, runOps_emit_cons, runOps_finish]

theorem exec_power_off (s : State) :
    exec (.power .off) s = .next (finish .ok { emit .disable s with line := .released }) := by
  rw [exec, execPower, powerOps, runOps_emit_cons]
  rfl

theorem exec_slaveTx (s : State) : exec .slaveTx s = .next (finish .unsupportedError s) := by
  rw [exec, execSlaveTx, slaveTxOps, runOps_finish]

theorem exec_slaveRx (s : State) : exec .slaveRx s = .next (finish .unsupportedError s) := by
  rw [exec, execSlaveRx, slaveRxOps, runOps_finish]

/-- Settles O27: DISABLE clears ENABLED, the rest of UNINIT clears the configuration. -/
theorem uninitEffect : Obligations.UninitEffect := by
  refine ⟨rfl, fun s => ?_⟩
  rw [exec, execUninit, uninitOps, runOps_emit_cons, runOps_deconfigure]
  rfl

/-- Settles O28: ENABLE and DISABLE change ENABLED; PSTATE 1 and 3 are the two that POWER does not support. -/
theorem powerEffect : Obligations.PowerEffect :=
  ⟨rfl, rfl, rfl, rfl, fun s =>
    ⟨exec_power_full s, exec_power_off s, exec_power_unsupported (b := 1) s (.inl rfl),
      exec_power_unsupported (b := 3) s (.inr rfl)⟩⟩

/-- Settles O29: either stub is its one `finish`. -/
theorem slaveStubsUnsupported : Obligations.SlaveStubsUnsupported :=
  ⟨rfl, rfl, fun s => ⟨exec_slaveTx s, exec_slaveRx s⟩⟩

end Sys2Proof.Machine
end

section
/-! Family 44_status_capability.md: the GET commands (R98 to R100) and CONTROL (R101). What GET_STATUS reports after a
WRITE or READ that passed its checks is the transfer's own direction with BUSY clear: `setDir` comes first (R76), no
later operation writes DIR, and the run ends in one of two ways that clear BUSY, a wait that expires (R83) or
`end_transfer` (R81). -/

namespace Sys2Proof.Machine

/-! The GET commands and CONTROL. -/

/-- A GET command is one write of RDATA, then Ok. -/
theorem runOps_setRdata_finish (w : Word) (s : State) :
    runOps [.setRdata w, .finish .ok] s = .next (finish .ok { s with rdata := w }) := rfl

theorem exec_getStatus (s : State) :
    exec .getStatus s = .next (finish .ok { s with rdata := statusWord s.dir s.busy }) := by
  rw [exec, execGetStatus, getStatusOps, runOps_setRdata_finish]

theorem exec_getVersion (s : State) :
    exec .getVersion s = .next (finish .ok { s with rdata := s.params.versionWord }) := by
  rw [exec, execGetVersion, getVersionOps, runOps_setRdata_finish]

theorem exec_getCapabilities (s : State) :
    exec .getCapabilities s = .next (finish .ok { s with rdata := 0x00000000 }) := by
  rw [exec, execGetCapabilities, getCapabilitiesOps, runOps_setRdata_finish]

theorem exec_control_standard (s : State) : exec (.control 0x01 0x0001) s = .next (finish .ok s) := by
  have hops : controlOps 0x01 0x0001 = [.finish .ok] := rfl
  rw [exec, execControl, hops, runOps_finish]

/-- The status word as a number: DIR in bit 1, BUSY in bit 0 (R97). -/
theorem statusWord_eq (d : Dir) (b : Bool) :
    statusWord d b = BitVec.ofNat 32 ((if d = .read then 2 else 0) + (if b then 1 else 0)) := by
  cases d <;> cases b <;> rfl

/-- Settles O30: the one supported pair, and every other. -/
theorem controlEffect : Obligations.ControlEffect := by
  refine ⟨rfl, fun option value s => ?_⟩
  by_cases h : option = 0x01 ∧ value = 0x0001
  · obtain ⟨rfl, rfl⟩ := h
    exact exec_control_standard s
  · rw [if_neg h]
    exact exec_control_unsupported s h

/-- Settles O32: one write of RDATA, then Ok. -/
theorem getVersionEffect : Obligations.GetVersionEffect := ⟨rfl, exec_getVersion⟩

/-- Settles O33: one write of RDATA, then Ok. -/
theorem getCapabilitiesEffect : Obligations.GetCapabilitiesEffect := ⟨rfl, exec_getCapabilities⟩

/-! DIR and BUSY after a transfer. -/

/-- Can the operation stand in a transfer between the `setDir` that begins it and the `end_transfer` that ends it? -/
def CtrlOp.insideTransfer : CtrlOp → Bool
  | .setDir _ => false
  | .finish _ => false
  | _ => true

/-- A flow that stays in the direction `d`, and is over only with BUSY clear. -/
def Flow.InDir (d : Dir) : Flow → Prop
  | .go t => t.dir = d
  | .ended t => t.dir = d ∧ t.busy = false
  | .fault _ => True

theorem Flow.InDir.andThen {d : Dir} {x : Flow} {k : State → Flow} (hx : x.InDir d)
    (hk : ∀ t : State, t.dir = d → (k t).InDir d) : (x.andThen k).InDir d := by
  cases x with
  | go t => exact hk t hx
  | ended t => exact hx
  | fault r => trivial

/-- A wait goes on in its direction, or expires and clears BUSY (R77, R83). -/
theorem waitLoop_inDir {d : Dir} (f : StatusFlag) (n : Nat) (s : State) (hs : s.dir = d) :
    (waitLoop f n s).InDir d := by
  induction n generalizing s with
  | zero => exact ⟨hs, rfl⟩
  | succ n ih =>
    cases hv : s.env.pollAt 0 with
    | true => rw [waitLoop_succ_true f n hv]; exact hs
    | false => rw [waitLoop_succ_false f n hv]; exact ih _ hs

/-- Inside a transfer only a wait ends the command, and no operation writes DIR. -/
theorem doOp_inDir {d : Dir} {op : CtrlOp} (hop : op.insideTransfer = true) (s : State) (hs : s.dir = d) :
    (doOp op s).InDir d := by
  cases op with
  | txBuf k =>
    simp only [doOp, txBufOp]
    split
    · exact hs
    · trivial
  | rxBuf k =>
    simp only [doOp, rxBufOp]
    split
    · next t ht =>
      obtain ⟨-, rfl⟩ := memWrite_cases ht
      exact hs
    · trivial
  | wait f => exact waitLoop_inDir f _ _ hs
  | polling f => exact waitLoop_inDir f _ _ hs
  | setDir e => cases hop
  | finish rc => cases hop
  | _ => exact hs

theorem runFlow_inDir {d : Dir} {ops : List CtrlOp} (hops : ops.all CtrlOp.insideTransfer = true) (s : State)
    (hs : s.dir = d) : (runFlow ops s).InDir d := by
  induction ops generalizing s with
  | nil => exact hs
  | cons op ops ih =>
    rw [List.all_cons, Bool.and_eq_true] at hops
    obtain ⟨hop, hrest⟩ := hops
    exact (doOp_inDir hop s hs).andThen (ih hrest)

/-- `end_transfer` keeps DIR and clears BUSY (R81). -/
theorem runFlow_endTransfer_dir_busy (stopped : Bool) (s : State) :
    ∃ t, runFlow (endTransfer stopped) s = .ended t ∧ t.dir = s.dir ∧ t.busy = false := by
  cases stopped <;> exact ⟨_, rfl, rfl, rfl⟩

/-- A transfer that completes, with whatever result, leaves its direction in DIR and BUSY clear. -/
theorem runOps_transfer_dir_busy {d : Dir} {ops : List CtrlOp} {stopped : Bool} {s t : State}
    (hops : ops.all CtrlOp.insideTransfer = true)
    (h : runOps (.setDir d :: ops ++ endTransfer stopped) s = .next t) : t.dir = d ∧ t.busy = false := by
  have hbody : (runFlow (.setDir d :: ops) s).InDir d := runFlow_inDir hops { s with dir := d } rfl
  rw [runOps, runFlow_append] at h
  generalize runFlow (.setDir d :: ops) s = x at hbody h
  cases x with
  | go u =>
    obtain ⟨v, hv, hdir, hbusy⟩ := runFlow_endTransfer_dir_busy stopped u
    rw [Flow.andThen_go, hv] at h
    cases h
    exact ⟨hdir.trans hbody, hbusy⟩
  | ended u => cases h; exact hbody
  | fault r => cases h

/-! WRITE and READ are such transfers. -/

@[simp] theorem all_insideTransfer_stopPoint (stops : Bool) :
    (stopPoint stops).all CtrlOp.insideTransfer = true := by
  cases stops <;> rfl

@[simp] theorem all_insideTransfer_txLoop (k n : Nat) : (txLoop k n).all CtrlOp.insideTransfer = true := by
  induction n generalizing k with
  | zero => rfl
  | succ n ih => exact ih (k + 1)

@[simp] theorem all_insideTransfer_rxLoop (k n : Nat) : (rxLoop k n).all CtrlOp.insideTransfer = true := by
  induction n generalizing k with
  | zero => rfl
  | succ n ih => exact ih (k + 1)

theorem all_insideTransfer_readProcedure (base len : Nat) (stops : Bool) :
    (readProcedure base len stops).all CtrlOp.insideTransfer = true := by
  unfold readProcedure
  split
  · simp [read1, CtrlOp.insideTransfer]
  · split
    · simp [read2, CtrlOp.insideTransfer]
    · simp [readN, CtrlOp.insideTransfer]

/-- START and the address phase begin with `setDir` (R76). -/
theorem transferHead_eq (addr : BitVec 7) (d : Dir) :
    ∃ ops, transferHead addr d = .setDir d :: ops ∧ ops.all CtrlOp.insideTransfer = true :=
  ⟨_, rfl, rfl⟩

theorem writeBody_eq (addr : BitVec 7) (base len : Nat) (pend : Bool) :
    ∃ ops, writeBody addr base len pend = .setDir .write :: ops ∧ ops.all CtrlOp.insideTransfer = true := by
  obtain ⟨head, hhead, hinside⟩ := transferHead_eq addr .write
  refine ⟨_, by rw [writeBody, hhead]; rfl, ?_⟩
  simp [hinside, CtrlOp.insideTransfer]

theorem exec_write_dir_busy {addr : BitVec 7} {len : Nat} {pend bufv : Bool} {s t : State}
    (hready : TransferReady len bufv s) (h : exec (.write addr len pend bufv) s = .next t) :
    t.dir = .write ∧ t.busy = false := by
  rw [exec, execWrite, writeOps, if_pos ((transferChecksPass_iff _ _ _).2 hready)] at h
  split at h
  · obtain ⟨ops, hbody, hops⟩ := writeBody_eq addr s.base len pend
    rw [runCommand_ok, writeSequence_eq, hbody] at h
    exact runOps_transfer_dir_busy hops h
  · cases h

theorem exec_read_dir_busy {addr : BitVec 7} {len : Nat} {pend bufv : Bool} {s t : State}
    (hready : TransferReady len bufv s) (h : exec (.read addr len pend bufv) s = .next t) :
    t.dir = .read ∧ t.busy = false := by
  obtain ⟨head, hhead, hinside⟩ := transferHead_eq addr .read
  rw [exec, execRead, readOps, if_pos ((transferChecksPass_iff _ _ _).2 hready), readSequence, hhead] at h
  refine runOps_transfer_dir_busy (ops := head ++ readProcedure s.base len _) ?_ h
  simp [hinside, all_insideTransfer_readProcedure]

/-- Settles O31: the status word's bits, and the DIR and BUSY that a transfer leaves. -/
theorem getStatusEffect : Obligations.GetStatusEffect := by
  refine ⟨rfl, fun s => ?effect, ⟨_, exec_getStatus _, rfl⟩, ?afterTransfer⟩
  case effect =>
    rw [exec_getStatus, statusWord_eq]
    rfl
  case afterTransfer =>
    intro addr len pend bufv s t hready
    refine ⟨fun h => ⟨_, exec_getStatus t, ?_⟩, fun h => ⟨_, exec_getStatus t, ?_⟩⟩
    · obtain ⟨hdir, hbusy⟩ := exec_read_dir_busy hready h
      rw [finish_rdata, hdir, hbusy]
      rfl
    · obtain ⟨hdir, hbusy⟩ := exec_write_dir_busy hready h
      rw [finish_rdata, hdir, hbusy]
      rfl

end Sys2Proof.Machine
end

section
/-! Family other, 30_encoding.md: the decoder and the encoder undo each other (R63 to R65). Each format is one theorem
about its fields: read back from an encoded word they are the operands, and a word is its own fields appended, so that
encoding them gives the word with the reserved field cleared. -/

namespace Sys2Proof.Machine

/-! The fields of an encoded word are its operands. -/

theorem pstateField_encodeP (op : BitVec 4) (ps : BitVec 2) : pstateField (encodeP op ps) = ps := by
  apply BitVec.eq_of_toNat_eq
  rw [pstateField_toNat, encodeP_toNat]
  omega

theorem ofBits_toBits (ps : PowerState) : PowerState.ofBits ps.toBits = ps := by
  cases ps <;> rfl

theorem controlFields_encodeC (op : BitVec 4) (option : BitVec 8) (value : BitVec 16) :
    optionField (encodeC op option value) = option ∧ highField (encodeC op option value) = value := by
  refine ⟨BitVec.eq_of_toNat_eq ?_, BitVec.eq_of_toNat_eq ?_⟩
  · rw [optionField_toNat, encodeC_toNat]
    omega
  · rw [highField_toNat, encodeC_toNat]
    omega

theorem eq_of_toNat_eq {a b : Bool} (h : a.toNat = b.toNat) : a = b := by
  revert a b
  decide

theorem transferFields_encodeT (op : BitVec 4) (addr : BitVec 7) (len : BitVec 16) (pend bufv : Bool) :
    addrField (encodeT op addr len pend bufv) = addr ∧ highField (encodeT op addr len pend bufv) = len ∧
    pendField (encodeT op addr len pend bufv) = pend ∧ bufvField (encodeT op addr len pend bufv) = bufv := by
  have hpend := pend.toNat_lt
  have hbufv := bufv.toNat_lt
  refine ⟨BitVec.eq_of_toNat_eq ?_, BitVec.eq_of_toNat_eq ?_, eq_of_toNat_eq ?_, eq_of_toNat_eq ?_⟩
  · rw [addrField_toNat, encodeT_toNat]
    omega
  · rw [highField_toNat, encodeT_toNat]
    omega
  · rw [pendField_toNat, encodeT_toNat]
    omega
  · rw [bufvField_toNat, encodeT_toNat]
    omega

/-- Settles O3: OP selects the format, and the format's fields are the operands, each of which fits its field. -/
theorem decodeOfEncode : Obligations.DecodeOfEncode := by
  intro i hwf
  cases i with
  | power ps =>
    rw [decode_power (Laws.OpcodeField.power ps), encode, pstateField_encodeP, ofBits_toBits]
  | write addr len pend bufv =>
    obtain ⟨haddr, hlen, hpend, hbufv⟩ := transferFields_encodeT 0x4 addr (BitVec.ofNat 16 len) pend bufv
    rw [decode_write (Laws.OpcodeField.write addr len pend bufv), encode, haddr, hlen, hpend, hbufv,
      BitVec.toNat_ofNat, Nat.mod_eq_of_lt (of_decide_eq_true hwf)]
  | read addr len pend bufv =>
    obtain ⟨haddr, hlen, hpend, hbufv⟩ := transferFields_encodeT 0x5 addr (BitVec.ofNat 16 len) pend bufv
    rw [decode_read (Laws.OpcodeField.read addr len pend bufv), encode, haddr, hlen, hpend, hbufv,
      BitVec.toNat_ofNat, Nat.mod_eq_of_lt (of_decide_eq_true hwf)]
  | control option value =>
    obtain ⟨hoptionLt, hvalueLt⟩ := Bool.and_eq_true_iff.1 hwf
    obtain ⟨hoption, hvalue⟩ := controlFields_encodeC 0x6 (BitVec.ofNat 8 option) (BitVec.ofNat 16 value)
    rw [decode_control (Laws.OpcodeField.control option value), encode, hoption, hvalue, BitVec.toNat_ofNat,
      BitVec.toNat_ofNat, Nat.mod_eq_of_lt (of_decide_eq_true hoptionLt), Nat.mod_eq_of_lt (of_decide_eq_true hvalueLt)]
  | _ => rfl

/-! A word is its fields appended, and a format's mask clears the reserved one of them. -/

theorem toNat_append_add {m n : Nat} (x : BitVec m) (y : BitVec n) : (x ++ y).toNat = x.toNat * 2 ^ n + y.toNat := by
  rw [BitVec.toNat_append, ← Nat.shiftLeft_add_eq_or_of_lt y.isLt, Nat.shiftLeft_eq]

theorem append_and_append {m n : Nat} {x a x' : BitVec m} {y b y' : BitVec n} (hx : x &&& a = x') (hy : y &&& b = y') :
    (x ++ y) &&& (a ++ b) = x' ++ y' := by
  rw [BitVec.and_append, hx, hy]

theorem word_eq_formatN (w : Word) : w = w.extractLsb' 4 28 ++ opField w := by
  apply BitVec.eq_of_toNat_eq
  simp only [toNat_append_add, opField_toNat, BitVec.extractLsb'_toNat, Nat.shiftRight_eq_div_pow]
  omega

theorem word_eq_formatP (w : Word) : w = w.extractLsb' 6 26 ++ (pstateField w ++ opField w) := by
  apply BitVec.eq_of_toNat_eq
  simp only [toNat_append_add, opField_toNat, pstateField_toNat, BitVec.extractLsb'_toNat, Nat.shiftRight_eq_div_pow]
  omega

theorem word_eq_formatC (w : Word) : w = highField w ++ (optionField w ++ (w.extractLsb' 4 4 ++ opField w)) := by
  apply BitVec.eq_of_toNat_eq
  simp only [toNat_append_add, opField_toNat, optionField_toNat, highField_toNat, BitVec.extractLsb'_toNat,
    Nat.shiftRight_eq_div_pow]
  omega

theorem word_eq_formatT (w : Word) :
    w = highField w ++ (w.extractLsb' 13 3 ++ (BitVec.ofBool (bufvField w) ++ (addrField w ++
      (BitVec.ofBool (pendField w) ++ opField w)))) := by
  apply BitVec.eq_of_toNat_eq
  simp only [toNat_append_add, opField_toNat, addrField_toNat, highField_toNat, pendField_toNat, bufvField_toNat,
    BitVec.toNat_ofBool, BitVec.extractLsb'_toNat, Nat.shiftRight_eq_div_pow]
  omega

theorem encodeN_fields (w : Word) : encodeN (opField w) = w &&& ~~~ 0xFFFFFFF0 := by
  conv_rhs => rw [word_eq_formatN w]
  exact (append_and_append (a := 0#28) (b := BitVec.allOnes 4) BitVec.and_zero BitVec.and_allOnes).symm

theorem encodeP_fields (w : Word) : encodeP (opField w) (pstateField w) = w &&& ~~~ 0xFFFFFFC0 := by
  conv_rhs => rw [word_eq_formatP w]
  exact (append_and_append (a := 0#26) (b := BitVec.allOnes 6) BitVec.and_zero BitVec.and_allOnes).symm

theorem encodeC_fields (w : Word) :
    encodeC (opField w) (optionField w) (highField w) = w &&& ~~~ 0x000000F0 := by
  conv_rhs => rw [word_eq_formatC w]
  exact (append_and_append (a := BitVec.allOnes 16) BitVec.and_allOnes
    (append_and_append (a := BitVec.allOnes 8) BitVec.and_allOnes
      (append_and_append (a := 0#4) (b := BitVec.allOnes 4) BitVec.and_zero BitVec.and_allOnes))).symm

theorem encodeT_fields (w : Word) :
    encodeT (opField w) (addrField w) (highField w) (pendField w) (bufvField w) = w &&& ~~~ 0x0000E000 := by
  conv_rhs => rw [word_eq_formatT w]
  exact (append_and_append (a := BitVec.allOnes 16) BitVec.and_allOnes
    (append_and_append (a := 0#3) (b := BitVec.allOnes 13) BitVec.and_zero BitVec.and_allOnes)).symm

theorem toBits_ofBits (b : BitVec 2) : (PowerState.ofBits b).toBits = b := by
  revert b
  decide

/-- Settles O4: the decoded operands are the word's fields, and encoding those leaves the reserved field 0. -/
theorem encodeOfDecode : Obligations.EncodeOfDecode := by
  intro w i h
  have hop := opField_of_decode h
  cases i with
  | power ps =>
    cases (decode_power hop).symm.trans h
    exact ⟨rfl, by rw [encode, toBits_ofBits, Instr.reservedMask, ← encodeP_fields, hop]; rfl⟩
  | write addr len pend bufv =>
    cases (decode_write hop).symm.trans h
    refine ⟨decide_eq_true (highField w).isLt, ?_⟩
    rw [encode, BitVec.ofNat_toNat, BitVec.setWidth_eq, Instr.reservedMask, ← encodeT_fields, hop]
    rfl
  | read addr len pend bufv =>
    cases (decode_read hop).symm.trans h
    refine ⟨decide_eq_true (highField w).isLt, ?_⟩
    rw [encode, BitVec.ofNat_toNat, BitVec.setWidth_eq, Instr.reservedMask, ← encodeT_fields, hop]
    rfl
  | control option value =>
    cases (decode_control hop).symm.trans h
    refine ⟨Bool.and_eq_true_iff.2
      ⟨decide_eq_true (optionField w).isLt, decide_eq_true (highField w).isLt⟩, ?_⟩
    rw [encode, BitVec.ofNat_toNat, BitVec.setWidth_eq, BitVec.ofNat_toNat, BitVec.setWidth_eq, Instr.reservedMask,
      ← encodeC_fields, hop]
    rfl
  | _ => exact ⟨rfl, by rw [Instr.reservedMask, ← encodeN_fields, hop]; rfl⟩

/-! OP selects the command. -/

theorem opcode_range (i : Instr) : 0x1 ≤ i.opcode.toNat ∧ i.opcode.toNat ≤ 0xB := by
  cases i <;> simp [Instr.opcode]

/-- A word that decodes to a reserved opcode holds it, and it is none of the commands' (R63). -/
theorem opField_of_decode_reserved {w : Word} {op : BitVec 4} (h : decode w = .reservedOpcode op) :
    opField w = op ∧ (w.toNat % 16 = 0x0 ∨ 0xC ≤ w.toNat % 16) := by
  have hop := opField_toNat w
  unfold decode at h
  split at h
  case h_12 =>
    cases h
    refine ⟨rfl, ?_⟩
    simp only [imp_false] at *
    omega
  all_goals cases h

/-- Settles O5: a word is a command with its OP value, or a reserved opcode, whose OP value no command has. -/
theorem decodeIsTotalByOpcode : Obligations.DecodeIsTotalByOpcode := by
  intro w
  cases h : decode w with
  | command i =>
    have hop : w.toNat % 16 = i.opcode.toNat := by rw [← opField_toNat, opField_of_decode h]
    rw [hop]
    exact .inl ⟨i, rfl, rfl, opcode_range i⟩
  | reservedOpcode op =>
    obtain ⟨rfl, hrange⟩ := opField_of_decode_reserved h
    exact .inr ⟨_, rfl, opField_toNat w, hrange⟩

/-- Settles O8: the decoder runs on each word. -/
theorem wordsDecode : Obligations.WordsDecode := by
  unfold Obligations.WordsDecode
  decide

/-- Settles O9: a pseudo-instruction is its expansion, and leaves BASE as it was. -/
theorem pseudoInstructionsExpand : Obligations.PseudoInstructionsExpand := fun _ _ _ _ _ => ⟨rfl, rfl⟩

end Sys2Proof.Machine
end

section
/-! Family other, one step (10_state.md, 20_memory.md): what a step can do, said once. It is a host access or one move
of the controller, and what every step keeps is what the three kinds of change keep: a silent one, an event, a byte
stored in BUF. -/

namespace Sys2Proof.Machine

/-! The host's accesses. -/

/-- What an admitted access of the host does: a read returns a datum, a write to BUFBASE or BUF stores, another write is
ignored or runs a command (R46, R52). -/
inductive Accessed (s : State) : State → Prop where
  | returned (d : HostDatum) : Accessed s (hostReturn d s)
  | ignored : Accessed s s
  | based (v : Word) : Accessed s { s with bufbase := bufbaseStored v }
  | stored (k : Nat) (b : Byte) (hk : k < s.params.bufSize) : Accessed s { s with buf := Memory.write s.buf k b }
  | command (w : Word) (t : State) (h : cmdWrite w s = .next t) : Accessed s t

theorem registerAccess_accessed {off : Nat} {kind : AccessKind} {s t : State}
    (h : registerAccess off kind s = .next t) : Accessed s t := by
  cases kind with
  | read => cases h; exact .returned _
  | write v =>
    simp only [registerAccess, registerWrite] at h
    split at h
    · exact .command v t h
    · cases h; exact .based v
    · cases h; exact .ignored

theorem bufferAccess_accessed {k : Nat} {kind : AccessKind} {s t : State} (h : bufferAccess k kind s = .next t) :
    Accessed s t := by
  cases kind with
  | read =>
    simp only [bufferAccess, bufferRead] at h
    split at h
    · cases h; exact .returned _
    · cases h
  | write v =>
    simp only [bufferAccess, bufferWrite] at h
    split at h
    · next u hu =>
      cases h
      obtain ⟨hk, rfl⟩ := memWrite_cases hu
      exact .stored k _ hk
    · cases h

theorem hostAccess_accessed {a : HostAccess} {s t : State} (h : hostAccess a s = .next t) : Accessed s t := by
  simp only [hostAccess] at h
  split at h
  · split at h
    · cases h
    · split at h
      · cases h
      · exact registerAccess_accessed h
  · split at h
    · split at h
      · cases h
      · exact bufferAccess_accessed h
    · cases h

/-- With a command in progress a step is the controller's (R13, R55). -/
theorem step_of_seq {s : State} {p : SeqPos} (h : s.seq = some p) : step s = ctrlStep p s := by
  simp only [step, h]

/-- With no command in progress a step is an access of the host; a step without one left changes nothing (log 6). -/
theorem step_of_noCommand {s t : State} (hseq : s.seq = none) (h : step s = .next t) :
    ∃ rest, Accessed { s with host := rest } t := by
  cases hhost : s.host with
  | nil =>
    simp only [step, hseq, hhost] at h
    cases h
    exact ⟨s.host, .ignored⟩
  | cons a rest =>
    rw [step_of_host hseq hhost] at h
    exact ⟨rest, hostAccess_accessed h⟩

/-! One move of the controller. -/

/-- Is the operation a wait, which the controller makes in steps of its own (R77)? -/
def CtrlOp.waits : CtrlOp → Bool
  | .wait _ => true
  | .polling _ => true
  | _ => false

/-- One controller step of an operation, `rest` after it, from `s` (R13): a wait loads TB, then polls until one answers
true or TB is 0; any other operation is done at once. -/
inductive CtrlMove (rest : List CtrlOp) (s : State) : CtrlOp → State → Prop where
  | loads (f : StatusFlag) :
      CtrlMove rest s (.wait f) (setTodo (.polling f :: rest) { s with tb := s.params.timeoutLimit })
  | expires (f : StatusFlag) (htb : s.tb = 0) : CtrlMove rest s (.polling f) (timeoutExit s)
  | succeeds (f : StatusFlag) (n : Nat) (htb : s.tb = n + 1) (hans : s.env.pollAt 0 = true) :
      CtrlMove rest s (.polling f) (setTodo rest (poll f s))
  | retries (f : StatusFlag) (n : Nat) (htb : s.tb = n + 1) (hans : s.env.pollAt 0 = false) :
      CtrlMove rest s (.polling f) (setTodo (.polling f :: rest) { poll f s with tb := n })
  | acts (op : CtrlOp) (t : State) (hop : op.waits = false) (hdo : doOp op s = .go t) :
      CtrlMove rest s op (setTodo rest t)
  | ends (op : CtrlOp) (t : State) (hop : op.waits = false) (hdo : doOp op s = .ended t) : CtrlMove rest s op t

/-- What the controller makes of an operation that it does at once. -/
def Flow.controllerStep (rest : List CtrlOp) : Flow → Host.Outcome State Fault Refusal
  | .go t => .next (setTodo rest t)
  | .ended t => .next t
  | .fault r => .fault r

theorem ctrlOpStep_of_not_waits {op : CtrlOp} (hop : op.waits = false) (rest : List CtrlOp) (s : State) :
    ctrlOpStep op rest s = (doOp op s).controllerStep rest := by
  cases op with
  | wait f => cases hop
  | polling f => cases hop
  | txBuf k => simp only [ctrlOpStep]; cases doOp (.txBuf k) s <;> rfl
  | rxBuf k => simp only [ctrlOpStep]; cases doOp (.rxBuf k) s <;> rfl
  | _ => rfl

theorem ctrlOpStep_polling_zero (f : StatusFlag) (rest : List CtrlOp) {s : State} (htb : s.tb = 0) :
    ctrlOpStep (.polling f) rest s = .next (timeoutExit s) := by
  simp [ctrlOpStep, htb]

theorem ctrlOpStep_polling_true (f : StatusFlag) (rest : List CtrlOp) {s : State} {n : Nat} (htb : s.tb = n + 1)
    (hans : s.env.pollAt 0 = true) : ctrlOpStep (.polling f) rest s = .next (setTodo rest (poll f s)) := by
  simp [ctrlOpStep, pollAnswer, htb, hans]

theorem ctrlOpStep_polling_false (f : StatusFlag) (rest : List CtrlOp) {s : State} {n : Nat} (htb : s.tb = n + 1)
    (hans : s.env.pollAt 0 = false) :
    ctrlOpStep (.polling f) rest s = .next (setTodo (.polling f :: rest) { poll f s with tb := n }) := by
  simp [ctrlOpStep, pollAnswer, htb, hans]

theorem ctrlOpStep_move {op : CtrlOp} {rest : List CtrlOp} {s t : State} (h : ctrlOpStep op rest s = .next t) :
    CtrlMove rest s op t := by
  by_cases hop : op.waits = false
  · rw [ctrlOpStep_of_not_waits hop] at h
    cases hdo : doOp op s with
    | go u => rw [hdo] at h; cases h; exact .acts op u hop hdo
    | ended u => rw [hdo] at h; cases h; exact .ends op _ hop hdo
    | fault r => rw [hdo] at h; cases h
  · cases op with
    | wait f => cases h; exact .loads f
    | polling f =>
      cases htb : s.tb with
      | zero => rw [ctrlOpStep_polling_zero f rest htb] at h; cases h; exact .expires f htb
      | succ n =>
        cases hans : s.env.pollAt 0 with
        | true => rw [ctrlOpStep_polling_true f rest htb hans] at h; cases h; exact .succeeds f n htb hans
        | false => rw [ctrlOpStep_polling_false f rest htb hans] at h; cases h; exact .retries f n htb hans
    | _ => exact absurd rfl hop

/-! What every step keeps. -/

/-- A property kept by each kind of change that a command makes: one that leaves TRACE, BUF and what no command writes,
an event, and a byte stored in BUF. -/
structure Stable (P : State → Prop) : Prop where
  silent : ∀ s t : State, SameHost s t → t.trace = s.trace → t.buf = s.buf → P s → P t
  event : ∀ (e : Event) (s : State), P s → P (emit e s)
  store : ∀ (k : Nat) (b : Byte) (s : State), P s → P { s with buf := Memory.write s.buf k b }

/-- The clause `silent`, for a change that leaves those by definition. -/
theorem Stable.keep {P : State → Prop} (h : Stable P) {s t : State} (hs : P s)
    (hhost : SameHost s t := by exact ⟨rfl, rfl, rfl, rfl⟩) (htrace : t.trace = s.trace := by rfl)
    (hbuf : t.buf = s.buf := by rfl) : P t :=
  h.silent s t hhost htrace hbuf hs

theorem Stable.poll {P : State → Prop} (h : Stable P) (f : StatusFlag) {s : State} (hs : P s) : P (poll f s) :=
  h.event _ _ (h.keep hs)

theorem Stable.waitLoop {P : State → Prop} (h : Stable P) (f : StatusFlag) (n : Nat) {s : State} (hs : P s) :
    (waitLoop f n s).all P :=
  waitLoop_all f (fun _ hu => h.poll f hu) (fun u _ hu => h.keep hu)
    (fun u hu => h.keep hu) n s hs

theorem Stable.doOp {P : State → Prop} (h : Stable P) (op : CtrlOp) (s : State) (hs : P s) : (doOp op s).all P := by
  cases op with
  | emit e => exact h.event e s hs
  | start => exact h.event _ s hs
  | txBuf k =>
    simp only [Machine.doOp, txBufOp]
    split
    · exact h.keep (h.event _ s hs)
    · trivial
  | rxBuf k =>
    simp only [Machine.doOp, rxBufOp]
    split
    · next t ht =>
      obtain ⟨-, rfl⟩ := memWrite_cases ht
      have hrx : P (rx s) := h.event _ _ (h.keep hs)
      exact h.keep (h.store k _ _ hrx)
    · trivial
  | wait f => exact h.waitLoop f _ (h.keep hs)
  | polling f => exact h.waitLoop f _ hs
  | _ => exact h.keep hs

theorem Stable.ctrlMove {P : State → Prop} (h : Stable P) {rest : List CtrlOp} {op : CtrlOp} {s t : State}
    (hs : P s) (ht : CtrlMove rest s op t) : P t := by
  have todo (l : List CtrlOp) (u : State) (hu : P u) : P (setTodo l u) :=
    h.keep hu
  cases ht with
  | loads f => exact todo _ _ (h.keep hs)
  | expires f => exact h.keep hs
  | succeeds f n => exact todo _ _ (h.poll f hs)
  | retries f n => exact todo _ _ (h.keep (h.poll f hs))
  | acts op u hop hdo =>
    have hall := h.doOp op s hs
    rw [hdo] at hall
    exact todo _ _ hall
  | ends op u hop hdo =>
    have hall := h.doOp op s hs
    rwa [hdo] at hall

theorem Stable.ctrlStep {P : State → Prop} (h : Stable P) {p : SeqPos} {s t : State} (hs : P s)
    (ht : ctrlStep p s = .next t) : P t := by
  unfold Machine.ctrlStep at ht
  split at ht
  · cases ht
    exact h.keep hs
  · exact h.ctrlMove hs (ctrlOpStep_move ht)

theorem Stable.runOps {P : State → Prop} (h : Stable P) {ops : List CtrlOp} {s t : State} (hs : P s)
    (ht : runOps ops s = .next t) : P t :=
  runOps_all_of_mem (fun op _ => h.doOp op) (fun u hu => h.keep hu) hs ht

theorem Stable.cmdWrite {P : State → Prop} (h : Stable P) {w : Word} {s t : State} (hs : P s)
    (ht : cmdWrite w s = .next t) : P t := by
  have haccept : P (acceptCommand w s) := h.keep hs
  cases hw : decode w with
  | command i =>
    rw [Machine.cmdWrite, hw] at ht
    obtain ⟨ops, -, hrun⟩ := exec_next ht
    exact h.runOps haccept hrun
  | reservedOpcode op =>
    rw [cmdWrite_reserved hw] at ht
    cases ht
    exact h.keep haccept

/-- A step keeps what a command keeps, if the host's own side plays no part in it. -/
theorem Stable.step {P : State → Prop} (h : Stable P)
    (hhost : ∀ (s : State) r d b, P s → P { s with host := r, hostData := d, bufbase := b }) {s t : State} (hs : P s)
    (ht : step s = .next t) : P t := by
  cases hseq : s.seq with
  | some p => rw [step_of_seq hseq] at ht; exact h.ctrlStep hs ht
  | none =>
    obtain ⟨rest, hacc⟩ := step_of_noCommand hseq ht
    have hrest : P { s with host := rest } := hhost s rest s.hostData s.bufbase hs
    cases hacc with
    | returned d => exact hhost _ rest (s.hostData ++ [d]) s.bufbase hrest
    | ignored => exact hrest
    | based v => exact hhost _ rest s.hostData (bufbaseStored v) hrest
    | stored k b hk => exact h.store k b _ hrest
    | command w t hw => exact h.cmdWrite hrest hw

theorem stable_sameHost (s : State) : Stable (SameHost s) where
  silent _ _ hu _ _ hs := hs.trans hu
  event _ _ hs := ⟨hs.bufbase, hs.params, hs.host, hs.hostData⟩
  store _ _ _ hs := ⟨hs.bufbase, hs.params, hs.host, hs.hostData⟩

theorem stable_trace (tr : List Event) : Stable (fun t => tr <+: t.trace) where
  silent _ _ _ htrace _ hs := by rwa [htrace]
  event _ _ hs := hs.trans (List.prefix_append _ _)
  store _ _ _ hs := hs

theorem stable_params (p : Params) : Stable (fun t => t.params = p) where
  silent _ _ hu _ _ hs := hu.params.trans hs
  event _ _ hs := hs
  store _ _ _ hs := hs

/-- A write makes an element defined and leaves the others. -/
theorem stable_defined (k : Nat) : Stable (fun t => Memory.read t.buf k ≠ none) where
  silent _ _ _ _ hbuf hs := by rwa [hbuf]
  event _ _ hs := hs
  store j b s hs := by
    rw [Memory.read_write]
    split
    · exact Option.some_ne_none b
    · exact hs

/-- Settles O11: while a command is in progress the step is the controller's, and no operation touches the host's
side. -/
theorem noAccessDuringCommand : Obligations.NoAccessDuringCommand := by
  intro s t p hseq h
  rw [step_of_seq hseq] at h
  obtain ⟨hbase, -, hhost, hdata⟩ := (stable_sameHost s).ctrlStep (SameHost.refl s) h
  exact ⟨hhost, hdata, hbase⟩

/-- Settles O17. -/
theorem traceOnlyGrows : Obligations.TraceOnlyGrows := fun s _ h =>
  (stable_trace s.trace).step (fun _ _ _ _ hs => hs) (List.prefix_refl _) h

/-- Settles O18. -/
theorem definedBytesStayDefined : Obligations.DefinedBytesStayDefined := fun _ _ k h hs =>
  (stable_defined k).step (fun _ _ _ _ hs => hs) hs h

/-- Settles O19. -/
theorem parametersNeverChange : Obligations.ParametersNeverChange := fun s _ h =>
  (stable_params s.params).step (fun _ _ _ _ hs => hs) rfl h

end Sys2Proof.Machine
end

section
/-! Family other, the host port (10_state.md, 20_memory.md): what each access reads and stores, and the start of a
command (R22, R46, R52, R62). -/

namespace Sys2Proof.Machine

/-- Settles O2: reset is at rest, with an empty BUF, and its opaque parameters are built within R7's bounds. -/
theorem resetMeetsInvariant : Obligations.ResetMeetsInvariant where
  params := by
    have hsize := Config.bufSizeLessOne.isLt
    simp [Params.wf, State.reset, Config.params]
    omega
  memory := Memory.reset_wf
  below := nofun
  base := rfl
  result := by decide
  noCommand := rfl
  notBusy := rfl
  phase := .inl rfl
  line := nofun
  config := rfl

theorem hostAccess_cmdAccess (w : Word) (s : State) : hostAccess (cmdAccess w) s = cmdWrite w s :=
  hostAccess_register s (by decide) (by decide)

/-- Settles O10: the access is a write to CMD, which runs what the word decodes to. -/
theorem stepRunsDecodedCommand : Obligations.StepRunsDecodedCommand := by
  intro s w rest hseq hhost
  rw [step_of_host hseq hhost, hostAccess_cmdAccess]
  refine ⟨fun i hw => ?_, fun op hw => ?_⟩
  · rw [cmdWrite, hw]
    rfl
  · rw [cmdWrite_reserved hw, finish, hseq]
    rfl

/-- Settles O12. -/
theorem waitsForTheHost : Obligations.WaitsForTheHost := by
  intro s h
  obtain ⟨hhost, hseq⟩ := Bool.and_eq_true_iff.1 h
  simp only [step, List.isEmpty_iff.1 hhost, Option.isNone_iff_eq_none.1 hseq]

/-- Settles O34: between host accesses BUSY is 0, and the status word's bit 0 is BUSY. -/
theorem busyNeverReported : Obligations.BusyNeverReported := by
  intro s t w hinv hw h
  rw [cmdWrite_command hw, exec_getStatus] at h
  cases h
  rw [finish_rdata]
  change (statusWord s.dir s.busy).getLsbD 0 = false
  rw [hinv.notBusy]
  cases s.dir <;> rfl

/-! Registers. -/

theorem registerValue_reserved {off : Nat} (s : State) (h : 0x010 ≤ off) : registerValue off s = 0 := by
  unfold registerValue
  split
  case h_5 => rfl
  all_goals omega

theorem bufbaseStored_eq_ofNat (v : Word) : bufbaseStored v = BitVec.ofNat 32 (v.toNat % 65536) := by
  apply BitVec.eq_of_toNat_eq
  simp [bufbaseStored]

/-- Settles O21: the read returns `registerValue` of its offset. -/
theorem registerReads : Obligations.RegisterReads := by
  intro s off rest hseq hhost hoff halign
  refine ⟨registerValue off.toNat { s with host := rest }, ?_, ?_, ?_, ?_, ?_, registerValue_reserved _⟩
  · rw [step_of_host hseq hhost, hostAccess_register _ hoff halign]
    rfl
  · rintro rfl
    rfl
  · rintro rfl
    have hlt : s.result.toNat % 4 < 4294967296 := by omega
    simp [registerValue, Nat.mod_eq_of_lt hlt]
  · rintro rfl
    rfl
  · rintro rfl
    have hlt : s.bufbase.toNat % 65536 < 4294967296 := by omega
    simp [registerValue, bufbaseStored, Nat.mod_eq_of_lt hlt]

/-- A host write elsewhere than to CMD and BUFBASE is ignored (R46). -/
theorem registerWrite_ignored {off : Nat} (v : Word) (s : State) (hcmd : off ≠ 0x000) (hbase : off ≠ 0x00C) :
    registerWrite off v s = .next s := by
  unfold registerWrite
  split
  · contradiction
  · contradiction
  · rfl

/-- Settles O22: BUFBASE stores bits 15 to 0, and every other register but CMD ignores the write. -/
theorem registerWrites : Obligations.RegisterWrites := by
  intro s off v rest hseq hhost hoff halign
  rw [step_of_host hseq hhost, hostAccess_register _ hoff halign]
  refine ⟨?_, fun hcmd hbase => ?_⟩
  · rintro rfl
    rw [← bufbaseStored_eq_ofNat]
    rfl
  · exact registerWrite_ignored v _ (fun h => hcmd (BitVec.eq_of_toNat_eq h)) (fun h => hbase (BitVec.eq_of_toNat_eq h))

/-! The BUF window. -/

/-- A byte access to offset 0x100 + k is an access to BUF[k] (R46, R47). -/
theorem step_buffer {s : State} {k : Nat} {kind : AccessKind} {rest : List HostAccess} (hseq : s.seq = none)
    (hk : k < s.params.bufSize) (hwf : s.params.wf = true)
    (hhost : s.host = { offset := BitVec.ofNat 32 (0x100 + k), width := .w8, kind := kind } :: rest) :
    step s = bufferAccess k kind { s with host := rest } := by
  have hsize : s.params.bufSize ≤ 65536 := by
    simp only [Params.wf, Bool.and_eq_true, decide_eq_true_eq] at hwf
    exact hwf.2
  have hoff : (BitVec.ofNat 32 (0x100 + k)).toNat = 0x100 + k := by
    rw [BitVec.toNat_ofNat]
    omega
  rw [step_of_host hseq hhost]
  simp [hostAccess, hoff, bufWindow, hk]

/-- A byte read of a defined element returns it (R62). -/
theorem step_buffer_read {s : State} {k : Nat} {b : Byte} {rest : List HostAccess} (hseq : s.seq = none)
    (hk : k < s.params.bufSize) (hwf : s.params.wf = true)
    (hhost : s.host = { offset := BitVec.ofNat 32 (0x100 + k), width := .w8, kind := .read } :: rest)
    (hb : Memory.read s.buf k = some b) :
    step s = .next { s with host := rest, hostData := s.hostData ++ [.byte b] } := by
  rw [step_buffer hseq hk hwf hhost, bufferAccess, bufferRead, memRead_ok (by exact hk) (by exact hb)]
  rfl

theorem bufferAccess_write {k : Nat} {s : State} (v : Word) (hk : k < s.params.bufSize) :
    bufferAccess k (.write v) s =
      .next { s with buf := Memory.write s.buf k (BitVec.ofNat 8 (v.toNat % 256)) } := by
  have hbyte : v.extractLsb' 0 8 = BitVec.ofNat 8 (v.toNat % 256) := BitVec.eq_of_toNat_eq (by simp)
  rw [bufferAccess, bufferWrite, memWrite_ok _ hk, hbyte]

/-- Settles O24: a defined element is returned, an undefined one is the fault. -/
theorem bufferReadOrFault : Obligations.BufferRead := by
  intro s k rest hseq hk hwf hhost
  refine ⟨fun b hb => step_buffer_read hseq hk hwf hhost hb, fun hnone => ?_⟩
  rw [step_buffer hseq hk hwf hhost]
  simp [bufferAccess, bufferRead, memRead, hk, hnone]

/-- Settles O23: the write stores the byte at BUF[k] only, and the read after it finds it there. -/
theorem bufferWriteThenRead : Obligations.BufferWriteThenRead := by
  intro s k v rest hseq hk hwf hhost
  have hread := Memory.read_write_same s.buf k (BitVec.ofNat 8 (v.toNat % 256))
  refine ⟨_, (step_buffer hseq hk hwf hhost).trans (bufferAccess_write v hk), rfl, hread,
    fun j hj => Memory.read_write_other _ _ hj, ?_⟩
  exact step_buffer_read (by exact hseq) (by exact hk) (by exact hwf) rfl (by exact hread)

end Sys2Proof.Machine
end

section
/-! Family other, whole commands (00_scope.md, 10_state.md): a command run controller step by controller step ends as
its CMD write does (R13, R55), and no command's behaviour depends on INITIALIZED, CFG, ENABLED, ACK, POS or PHASE. -/

namespace Sys2Proof.Machine

open Sys2Proof.Claims

/-! Controller step by controller step. -/

/-- Some number of steps from `u` ends in `o`. -/
def Reaches (u : State) (o : Host.Outcome State Fault Refusal) : Prop :=
  ∃ n, Host.Core.run Sys2Proof.core n u = o

/-- What the steps after the first make of its outcome. -/
def runAfter (n : Nat) : Host.Outcome State Fault Refusal → Host.Outcome State Fault Refusal
  | .next v => Host.Core.run Sys2Proof.core n v
  | .fault r => .fault r
  | .refused r => .refused r

theorem core_run_succ (n : Nat) (u : State) :
    Host.Core.run Sys2Proof.core (n + 1) u = runAfter n (step u) := by
  refine (Host.Core.run.eq_2 Sys2Proof.core u n).trans ?_
  change _ = runAfter n (Sys2Proof.core.step u)
  cases Sys2Proof.core.step u <;> rfl

theorem Reaches.refl (u : State) : Reaches u (.next u) := ⟨0, rfl⟩

theorem Reaches.step {u v : State} {o : Host.Outcome State Fault Refusal} (h : step u = .next v) (hv : Reaches v o) :
    Reaches u o := by
  obtain ⟨n, hn⟩ := hv
  exact ⟨n + 1, by rw [core_run_succ, h]; exact hn⟩

theorem Reaches.fault {u : State} {r : Fault} (h : Machine.step u = .fault r) : Reaches u (.fault r) :=
  ⟨1, by rw [core_run_succ, h]; rfl⟩

/-- With operations to do and a command in progress, the next step is that of the first operation. -/
theorem step_setTodo_cons {s : State} (hs : s.seq.isSome = true) (op : CtrlOp) (rest : List CtrlOp) :
    step (setTodo (op :: rest) s) = ctrlOpStep op rest (setTodo (op :: rest) s) := by
  obtain ⟨p, hp⟩ := Option.isSome_iff_exists.1 hs
  rw [step_of_seq (p := { p with todo := op :: rest }) (by rw [setTodo_seq, hp]; rfl)]
  rfl

@[simp] theorem setTodo_setTodo (l m : List CtrlOp) (s : State) : setTodo l (setTodo m s) = setTodo l s := by
  cases hs : s.seq <;> simp [setTodo, hs]

theorem txBufOp_go {k : Nat} {s t : State} (h : txBufOp k s = .go t) : ∃ b, t = advanceIdx (emit (.tx b) s) := by
  unfold txBufOp at h
  split at h
  · cases h
    exact ⟨_, rfl⟩
  · cases h

theorem rxBufOp_go {k : Nat} {s t : State} (h : rxBufOp k s = .go t) :
    t = advanceIdx { rx s with buf := Memory.write (rx s).buf k (rxByte s) } := by
  unfold rxBufOp at h
  split at h
  · next u hu =>
    cases h
    rw [(memWrite_cases hu).2]
  · cases h

/-- What goes on keeps its command in progress. -/
theorem doOp_go_isSome {op : CtrlOp} (hop : op.waits = false) {s t : State} (h : doOp op s = .go t)
    (hs : s.seq.isSome = true) : t.seq.isSome = true := by
  cases op with
  | txBuf k =>
    obtain ⟨b, rfl⟩ := txBufOp_go h
    rwa [advanceIdx_seq, Option.isSome_map]
  | rxBuf k =>
    obtain rfl := rxBufOp_go h
    rwa [advanceIdx_seq, Option.isSome_map]
  | wait f => cases hop
  | polling f => cases hop
  | finish rc => cases h
  | _ => cases h; exact hs

theorem rxBufOp_outside {k : Nat} {s : State} (hk : ¬ k < s.params.bufSize) :
    rxBufOp k s = .fault .bufferIndexOutside := by
  simp [rxBufOp, memWrite, hk]

theorem runOps_cons_go {op : CtrlOp} {rest : List CtrlOp} {s t : State} (h : doOp op s = .go t) :
    runOps (op :: rest) s = runOps rest t := by
  rw [runOps, runFlow_go h, runOps]

theorem runOps_cons_ended {op : CtrlOp} {rest : List CtrlOp} {s t : State} (h : doOp op s = .ended t) :
    runOps (op :: rest) s = .next t := by
  rw [runOps, runFlow_ended h]

theorem runOps_cons_fault {op : CtrlOp} {rest : List CtrlOp} {s : State} {r : Fault} (h : doOp op s = .fault r) :
    runOps (op :: rest) s = .fault r := by
  rw [runOps, runFlow_cons, h, Flow.andThen_fault]

/-- The loop of a wait, one poll a step: TB counts the steps that are left (R77). -/
theorem reaches_polling (f : StatusFlag) {rest : List CtrlOp}
    (hrest : ∀ s : State, s.seq.isSome = true → Reaches (setTodo rest s) (runOps rest s)) (n : Nat) (s : State)
    (htb : s.tb = n) (hs : s.seq.isSome = true) :
    Reaches (setTodo (.polling f :: rest) s) (runOps (.polling f :: rest) s) := by
  induction n generalizing s with
  | zero =>
    have hdo : doOp (.polling f) s = .ended (timeoutExit s) := by rw [doOp, htb, waitLoop_zero]
    have hstep := step_setTodo_cons hs (.polling f) rest
    rw [ctrlOpStep_polling_zero f rest (by exact htb)] at hstep
    rw [runOps_cons_ended hdo]
    exact .step hstep (.refl _)
  | succ n ih =>
    have hstep := step_setTodo_cons hs (.polling f) rest
    cases hans : s.env.pollAt 0 with
    | true =>
      have hdo : doOp (.polling f) s = .go (poll f s) := by rw [doOp, htb, waitLoop_succ_true f n hans]
      rw [ctrlOpStep_polling_true f rest (by exact htb) (by exact hans)] at hstep
      rw [runOps_cons_go hdo]
      refine .step hstep ?_
      have hpoll : poll f (setTodo (.polling f :: rest) s) = setTodo (.polling f :: rest) (poll f s) := rfl
      rw [hpoll, setTodo_setTodo]
      exact hrest (poll f s) hs
    | false =>
      have hdo : doOp (.polling f) s = doOp (.polling f) { poll f s with tb := n } := by
        rw [doOp, htb, waitLoop_succ_false f n hans, doOp]
      rw [ctrlOpStep_polling_false f rest (by exact htb) (by exact hans)] at hstep
      rw [runOps, runFlow_cons, hdo, ← runFlow_cons, ← runOps]
      refine .step hstep ?_
      have hpoll : ({ poll f (setTodo (.polling f :: rest) s) with tb := n } : State) =
          setTodo (.polling f :: rest) { poll f s with tb := n } := rfl
      rw [hpoll, setTodo_setTodo]
      exact ih _ rfl hs

/-- The controller, step by step, ends as the whole run does. -/
theorem reaches_runOps (ops : List CtrlOp) (s : State) (hs : s.seq.isSome = true) :
    Reaches (setTodo ops s) (runOps ops s) := by
  induction ops generalizing s with
  | nil =>
    obtain ⟨p, hp⟩ := Option.isSome_iff_exists.1 hs
    have hstep : step (setTodo [] s) = .next { s with seq := none } := by
      rw [step_of_seq (p := { p with todo := [] }) (by rw [setTodo_seq, hp]; rfl)]
      rfl
    exact .step hstep (.refl _)
  | cons op rest ih =>
    have hstep := step_setTodo_cons hs op rest
    by_cases hop : op.waits = false
    · rw [ctrlOpStep_of_not_waits hop, doOp_setTodo] at hstep
      cases hdo : doOp op s with
      | go t =>
        rw [hdo] at hstep
        rw [runOps_cons_go hdo]
        simp only [Flow.controllerStep, setTodo_setTodo] at hstep
        exact .step hstep (ih t (doOp_go_isSome hop hdo hs))
      | ended t =>
        rw [hdo] at hstep
        rw [runOps_cons_ended hdo]
        exact .step hstep (.refl t)
      | fault r =>
        rw [hdo] at hstep
        rw [runOps_cons_fault hdo]
        exact .fault hstep
    · cases op with
      | wait f =>
        have hpolling := reaches_polling f ih s.params.timeoutLimit { s with tb := s.params.timeoutLimit } rfl hs
        rw [← setTodo_setTodo _ (.wait f :: rest)] at hpolling
        exact .step hstep hpolling
      | polling f => exact reaches_polling f ih s.tb s rfl hs
      | _ => exact absurd rfl hop

theorem commandOps_acceptCommand (i : Instr) (w : Word) (s : State) :
    commandOps i (acceptCommand w s) = commandOps i s := by
  cases i <;> rfl

/-- A CMD write runs the word's operations (R63, R65). -/
theorem cmdWrite_eq_runCommand (w : Word) (s : State) :
    cmdWrite w s = runCommand (wordOps w s) (acceptCommand w s) := by
  cases hw : decode w with
  | command i =>
    have hops : wordOps w s = commandOps i s := by rw [wordOps, hw]
    rw [hops, ← commandOps_acceptCommand i w, ← exec_eq_runCommand, cmdWrite, hw]
  | reservedOpcode op => rw [cmdWrite, wordOps, hw]; rfl

/-- A command that starts has its word's operations to do. -/
theorem startCommand_ok {w : Word} {s u : State} (h : startCommand w s = .ok u) :
    ∃ ops, wordOps w s = .ok ops ∧ u = setTodo ops (acceptCommand w s) := by
  unfold startCommand at h
  split at h
  · next ops hops => cases h; exact ⟨ops, hops, rfl⟩
  · cases h

/-- Settles O13: the controller's steps run the operations that the CMD write runs. -/
theorem controllerStepsRefineCommand : Obligations.ControllerStepsRefineCommand := by
  intro w s
  refine ⟨fun u hu => ?_, fun r hr => ?_⟩
  · obtain ⟨ops, hops, rfl⟩ := startCommand_ok hu
    rw [cmdWrite_eq_runCommand, hops, runCommand_ok]
    exact reaches_runOps ops _ rfl
  · unfold startCommand at hr
    split at hr
    · cases hr
    · next q hq => cases hr; rw [cmdWrite_eq_runCommand, hq]; rfl

/-! The control state that no command reads. -/

/-- Two flows of one kind whose states agree but for INITIALIZED, CFG, ENABLED, ACK, POS and PHASE. -/
inductive Flow.Agree : Flow → Flow → Prop where
  | go (s t : State) (h : agreeButControl s t) : Agree (.go s) (.go t)
  | ended (s t : State) (h : agreeButControl s t) : Agree (.ended s) (.ended t)
  | fault (r : Fault) : Agree (.fault r) (.fault r)

theorem Flow.Agree.andThen {x y : Flow} (h : x.Agree y) {k : State → Flow}
    (hk : ∀ s t, agreeButControl s t → (k s).Agree (k t)) : (x.andThen k).Agree (y.andThen k) := by
  cases h with
  | go s t h => exact hk s t h
  | ended s t h => exact .ended s t h
  | fault r => exact .fault r

/-- `s` with the INITIALIZED, CFG, ENABLED, ACK, POS and PHASE of `v`. -/
def withControlOf (v s : State) : State :=
  { s with
    initialized := v.initialized, cfg := v.cfg, enabled := v.enabled, ack := v.ack, pos := v.pos, phase := v.phase }

theorem exists_of_agreeButControl {s t : State} (h : agreeButControl s t) : ∃ v, t = withControlOf v s := ⟨t, h⟩

theorem waitLoop_agree (f : StatusFlag) (n : Nat) {s t : State} (h : agreeButControl s t) :
    (waitLoop f n s).Agree (waitLoop f n t) := by
  obtain ⟨v, rfl⟩ := exists_of_agreeButControl h
  induction n generalizing s with
  | zero => exact .ended _ _ rfl
  | succ n ih =>
    cases hans : s.env.pollAt 0 with
    | true =>
      rw [waitLoop_succ_true f n hans, waitLoop_succ_true f n (s := withControlOf v s) hans]
      exact .go _ _ rfl
    | false =>
      rw [waitLoop_succ_false f n hans, waitLoop_succ_false f n (s := withControlOf v s) hans]
      exact ih (s := { poll f s with tb := n }) rfl

/-- No operation reads the six; it writes a value of its own or leaves them. -/
theorem doOp_agree (op : CtrlOp) {s t : State} (h : agreeButControl s t) : (doOp op s).Agree (doOp op t) := by
  obtain ⟨v, rfl⟩ := exists_of_agreeButControl h
  cases op with
  | wait f => exact waitLoop_agree f s.params.timeoutLimit (s := { s with tb := s.params.timeoutLimit }) rfl
  | polling f => exact waitLoop_agree f s.tb h
  | txBuf k =>
    have hread : memRead k (withControlOf v s) = memRead k s := rfl
    simp only [doOp, txBufOp, hread]
    cases memRead k s with
    | ok b => exact .go _ _ rfl
    | error r => exact .fault r
  | rxBuf k =>
    by_cases hk : k < s.params.bufSize
    · rw [doOp, doOp, rxBufOp_ok hk, rxBufOp_ok (s := withControlOf v s) hk]
      exact .go _ _ rfl
    · rw [doOp, doOp, rxBufOp_outside hk, rxBufOp_outside (s := withControlOf v s) hk]
      exact .fault _
  | finish rc => exact .ended _ _ rfl
  | _ => exact .go _ _ rfl

theorem runFlow_agree (ops : List CtrlOp) {s t : State} (h : agreeButControl s t) :
    (runFlow ops s).Agree (runFlow ops t) := by
  induction ops generalizing s t with
  | nil => exact .go s t h
  | cons op ops ih => exact (doOp_agree op h).andThen fun _ _ => ih

theorem runOps_agree (ops : List CtrlOp) {s t : State} (h : agreeButControl s t) :
    outcomesAgree (runOps ops s) (runOps ops t) := by
  have hflow := runFlow_agree ops h
  rw [runOps, runOps]
  generalize runFlow ops s = x at hflow
  generalize runFlow ops t = y at hflow
  cases hflow with
  | go u v huv =>
    obtain ⟨c, rfl⟩ := exists_of_agreeButControl huv
    exact rfl
  | ended u v huv => exact huv
  | fault r => exact rfl

/-- Settles O57: a command's operations do not depend on the six, and no operation reads them. -/
theorem controlStateNeverRead : Obligations.ControlStateNeverRead := by
  intro i s t h
  have hops : commandOps i t = commandOps i s := by
    obtain ⟨v, rfl⟩ := exists_of_agreeButControl h
    cases i <;> rfl
  rw [exec_eq_runCommand, exec_eq_runCommand, hops]
  cases commandOps i s with
  | ok ops => exact runOps_agree ops h
  | error r => exact rfl

end Sys2Proof.Machine
end

section
/-! Family other, transfers (41_transaction_executor.md, 42_read_sequencer.md): WRITE and READ run along their nominal
events. `Flow.Performs` says of a piece of a transfer everything that its events determine; it holds of each operation,
passes through lists one after the other, and gives the two ways in which a whole transfer ends. -/

namespace Sys2Proof.Claims

open Sys2Proof.Machine

/-! What a list of events leaves in the state. -/

@[simp] theorem pollCount_nil : pollCount [] = 0 := rfl

theorem pollCount_append (g k : List Event) : pollCount (g ++ k) = pollCount g + pollCount k := List.countP_append

theorem pollCount_cons_of_not_poll {e : Event} (h : e.isPoll = false) (g : List Event) :
    pollCount (e :: g) = pollCount g := by
  simp [pollCount, h]

@[simp] theorem pollCount_poll_cons (f : StatusFlag) (v : Bool) (g : List Event) :
    pollCount (.poll f v :: g) = pollCount g + 1 :=
  List.countP_cons_of_pos rfl

@[simp] theorem pollCount_replicate (f : StatusFlag) (v : Bool) (n : Nat) :
    pollCount (List.replicate n (.poll f v)) = n := by
  rw [pollCount, List.countP_replicate]
  rfl

@[simp] theorem received_replicate (f : StatusFlag) (v : Bool) (n : Nat) :
    (List.replicate n (Event.poll f v)).filterMap Event.received = [] := by
  simp [Event.received]

theorem storeBytes_append (m : Memory) (k : Nat) (xs ys : List Byte) :
    storeBytes m k (xs ++ ys) = storeBytes (storeBytes m k xs) (k + xs.length) ys := by
  induction xs generalizing m k with
  | nil => rfl
  | cons x xs ih =>
    rw [List.length_cons, Nat.add_comm xs.length 1, ← Nat.add_assoc]
    exact ih _ _

theorem ackAfterEvents_append (a : Bool) (g k : List Event) :
    ackAfterEvents a (g ++ k) = ackAfterEvents (ackAfterEvents a g) k := by
  induction g generalizing a with
  | nil => rfl
  | cons e g ih => cases e <;> exact ih _

theorem posAfterEvents_append (p : Bool) (g k : List Event) :
    posAfterEvents p (g ++ k) = posAfterEvents (posAfterEvents p g) k := by
  induction g generalizing p with
  | nil => rfl
  | cons e g ih => cases e <;> exact ih _

@[simp] theorem ackAfterEvents_replicate (a : Bool) (f : StatusFlag) (v : Bool) (n : Nat) :
    ackAfterEvents a (List.replicate n (.poll f v)) = a := by
  induction n with
  | zero => rfl
  | succ n ih => exact ih

@[simp] theorem posAfterEvents_replicate (p : Bool) (f : StatusFlag) (v : Bool) (n : Nat) :
    posAfterEvents p (List.replicate n (.poll f v)) = p := by
  induction n with
  | zero => rfl
  | succ n ih => exact ih

/-! Polls and their answers. -/

theorem answeredBy_of_pollCount_eq_zero (e : Env) {g : List Event} (h : pollCount g = 0) : AnsweredBy e g := by
  have hnone : ∀ ev ∈ g, pollAnswered ev = none := by
    intro ev hev
    have hpoll := List.countP_eq_zero.1 h ev hev
    cases ev with
    | poll f v => exact absurd rfl hpoll
    | _ => rfl
  rw [AnsweredBy, h, List.filterMap_eq_nil_iff.2 hnone]
  rfl

theorem AnsweredBy.append {e : Env} {g k : List Event} (hg : AnsweredBy e g)
    (hk : AnsweredBy (e.afterPolls (pollCount g)) k) : AnsweredBy e (g ++ k) := by
  have hshift : (e.afterPolls (pollCount g)).pollAt = fun i => e.pollAt (pollCount g + i) := by
    funext i
    exact Env.pollAt_afterPolls e _ i
  rw [AnsweredBy, hshift] at hk
  rw [AnsweredBy] at hg ⊢
  rw [List.filterMap_append, hg, hk, pollCount_append, List.range_add, List.map_append, List.map_map]
  rfl

/-- Polls that answer false, as many as the environment answers false. -/
theorem answeredBy_failedPolls {n : Nat} {s : State} (h : EnvSilent n s) (f : StatusFlag) :
    AnsweredBy s.env (List.replicate n (.poll f false)) := by
  rw [AnsweredBy, pollCount_replicate, List.filterMap_replicate]
  refine List.ext_getElem (by simp [pollAnswered]) fun i hi _ => ?_
  have hin : i < n := by simpa [pollAnswered] using hi
  simp [pollAnswered, h i hin]

/-! Lists that follow a nominal list. -/

theorem received_successes (g : List Event) :
    (successes g).filterMap Event.received = g.filterMap Event.received := by
  rw [successes, List.filterMap_filter]
  congr 1
  funext e
  cases e with
  | poll f v => exact ite_self _
  | _ => rfl

theorem Follows.received_eq {limit : Nat} {n g : List Event} (h : Follows limit n g true) :
    g.filterMap Event.received = n.filterMap Event.received := by
  rw [← received_successes, h.successes_eq]

end Sys2Proof.Claims

namespace Sys2Proof.Machine

open Sys2Proof.Claims

/-! The state after events. -/

/-- `s` after the events of `g`, the bytes received stored from BUF[k] on. -/
def State.afterEvents (k : Nat) (g : List Event) (s : State) : State :=
  { s with
    trace := s.trace ++ g
    buf := storeBytes s.buf k (g.filterMap Event.received)
    ack := ackAfterEvents s.ack g
    pos := posAfterEvents s.pos g
    env := (s.env.afterPolls (pollCount g)).afterRxs (g.filterMap Event.received).length }

/-- `s` at another point of a transfer: what the events of a transfer do not determine. -/
def State.midway (p : Phase) (b : Bool) (tb : Nat) (q : Option SeqPos) (s : State) : State :=
  { s with phase := p, busy := b, tb := tb, seq := q }

@[simp] theorem afterEvents_nil (k : Nat) (s : State) : s.afterEvents k [] = s := by
  simp [State.afterEvents, storeBytes, ackAfterEvents, posAfterEvents, pollCount]

theorem afterEvents_append (k : Nat) (g g' : List Event) (s : State) :
    (s.afterEvents k g).afterEvents (k + (g.filterMap Event.received).length) g' = s.afterEvents k (g ++ g') := by
  simp [State.afterEvents, storeBytes_append, ackAfterEvents_append, posAfterEvents_append, pollCount_append,
    Env.afterPolls_afterRxs]

/-- An event that is neither a poll nor a data read. -/
theorem afterEvents_act {e : Event} (hpoll : e.isPoll = false) (hrx : e.received = none) (k : Nat) (s : State) :
    s.afterEvents k [e] =
      { s with trace := s.trace ++ [e], ack := ackAfterEvents s.ack [e], pos := posAfterEvents s.pos [e] } := by
  simp [State.afterEvents, storeBytes, pollCount, hpoll, hrx]

theorem afterEvents_rx (k : Nat) (b : Byte) (s : State) :
    s.afterEvents k [.rx b] =
      { s with trace := s.trace ++ [.rx b], buf := Memory.write s.buf k b, env := s.env.afterRxs 1 } := by
  simp [State.afterEvents, storeBytes, pollCount, Event.isPoll, Event.received, ackAfterEvents, posAfterEvents]

theorem afterEvents_failedPolls (k n : Nat) (f : StatusFlag) (s : State) :
    s.afterEvents k (List.replicate n (.poll f false)) =
      { s with trace := s.trace ++ List.replicate n (.poll f false), env := s.env.afterPolls n } := by
  simp [State.afterEvents, storeBytes]

theorem afterEvents_poll (k : Nat) (f : StatusFlag) (v : Bool) (s : State) :
    s.afterEvents k [.poll f v] = { s with trace := s.trace ++ [.poll f v], env := s.env.afterPolls 1 } := by
  have hrec : [Event.poll f v].filterMap Event.received = [] := rfl
  simp [State.afterEvents, hrec, storeBytes, ackAfterEvents, posAfterEvents]

theorem afterEvents_waited (k j : Nat) (f : StatusFlag) (s : State) :
    s.afterEvents k (List.replicate j (.poll f false) ++ [.poll f true]) =
      { s with
        trace := s.trace ++ (List.replicate j (.poll f false) ++ [.poll f true]), env := s.env.afterPolls (j + 1) } := by
  rw [← afterEvents_append, afterEvents_failedPolls, afterEvents_poll]
  simp

/-! A piece of a transfer along its nominal events. -/

/-- A flow that began in `s`, whose nominal events are `n` and whose bytes go to BUF[k] and on: it goes on when all of
them have happened, or a wait has expired and it is over. With one poll a wait, TB is as the last wait loaded it. -/
inductive Flow.Performs (k : Nat) (n : List Event) (s : State) : Flow → Prop where
  | go (g : List Event) (p : Phase) (b : Bool) (tb : Nat) (q : Option SeqPos)
      (follows : Follows s.params.timeoutLimit n g true) (answered : AnsweredBy s.env g)
      (watchdog : (∀ e ∈ g, e.isFailedPoll = false) →
        tb = if pollCount g = 0 then s.tb else s.params.timeoutLimit) :
      Performs k n s (.go ((s.afterEvents k g).midway p b tb q))
  | expired (g : List Event) (follows : Follows s.params.timeoutLimit n g false) (answered : AnsweredBy s.env g) :
      Performs k n s (.ended (timeoutExit { s.afterEvents k g with tb := 0 }))

/-- What the nominal events `n`, once they have happened, leave for the operations that come after them. -/
structure Performed (k : Nat) (n : List Event) (s t : State) : Prop where
  params : t.params = s.params
  buf : t.buf = storeBytes s.buf k (n.filterMap Event.received)
  rxs : ∀ i, t.env.rxAt i = s.env.rxAt ((n.filterMap Event.received).length + i)

theorem Flow.Performs.andThen {k : Nat} {n m : List Event} {s : State} {x : Flow} {f : State → Flow}
    (hx : x.Performs k n s)
    (hf : ∀ t, Performed k n s t → (f t).Performs (k + (n.filterMap Event.received).length) m t) :
    (x.andThen f).Performs k (n ++ m) s := by
  cases hx with
  | expired g hg ha => exact .expired g (hg.append_of_expired m) ha
  | go g p b tb q hg ha hw =>
    have hrec := hg.received_eq
    have ht : Performed k n s ((s.afterEvents k g).midway p b tb q) :=
      { params := rfl
        buf := by rw [← hrec]; rfl
        rxs := fun i => by rw [← hrec]; exact Env.rxAt_afterRxs _ _ i }
    have hft := hf _ ht
    rw [Flow.andThen_go]
    generalize f ((s.afterEvents k g).midway p b tb q) = y at hft
    rw [← hrec] at hft
    cases hft with
    | expired g' hg' ha' =>
      have hstate : timeoutExit { ((s.afterEvents k g).midway p b tb q).afterEvents
          (k + (g.filterMap Event.received).length) g' with tb := 0 } =
          timeoutExit { s.afterEvents k (g ++ g') with tb := 0 } := by
        rw [← afterEvents_append]
        rfl
      rw [hstate]
      exact .expired _ (hg.append hg') (ha.append ha')
    | go g' p' b' tb' q' hg' ha' hw' =>
      have hstate : (((s.afterEvents k g).midway p b tb q).afterEvents
          (k + (g.filterMap Event.received).length) g').midway p' b' tb' q' =
          (s.afterEvents k (g ++ g')).midway p' b' tb' q' := by
        rw [← afterEvents_append]
        rfl
      rw [hstate]
      refine .go _ _ _ _ _ (hg.append hg') (ha.append ha') fun hall => ?_
      obtain ⟨hallg, hallg'⟩ := List.forall_mem_append.1 hall
      have htb : tb' = if pollCount g' = 0 then tb else s.params.timeoutLimit := hw' hallg'
      rw [htb, hw hallg, pollCount_append]
      by_cases hzero : pollCount g' = 0 <;> simp [hzero]

/-- Lists one after the other, the second from the index that the bytes of the first leave. -/
theorem runFlow_append_performs {k k' : Nat} {n m : List Event} {s : State} {xs ys : List CtrlOp}
    (hx : (runFlow xs s).Performs k n s) (hy : ∀ t, Performed k n s t → (runFlow ys t).Performs k' m t)
    (hk : k' = k + (n.filterMap Event.received).length := by rfl) :
    (runFlow (xs ++ ys) s).Performs k (n ++ m) s := by
  subst hk
  rw [runFlow_append]
  exact hx.andThen hy

/-- Operations without an event of their own. -/
theorem Flow.Performs.silent {k : Nat} {s t : State} (ht : t = s.midway t.phase t.busy s.tb t.seq) :
    (Flow.go t).Performs k [] s := by
  have hgo := Flow.Performs.go (k := k) (s := s) [] t.phase t.busy s.tb t.seq .done
    (answeredBy_of_pollCount_eq_zero _ rfl) (fun _ => rfl)
  rwa [afterEvents_nil, ← ht] at hgo

/-- Operations with one event that is neither a poll nor a data read. -/
theorem Flow.Performs.act {k : Nat} {s t : State} {e : Event} (hpoll : e.isPoll = false) (hrx : e.received = none)
    (ht : t = { s with
      trace := s.trace ++ [e], ack := ackAfterEvents s.ack [e], pos := posAfterEvents s.pos [e]
      phase := t.phase, busy := t.busy, seq := t.seq }) :
    (Flow.go t).Performs k [e] s := by
  have hcount : pollCount [e] = 0 := pollCount_cons_of_not_poll hpoll []
  have hgo := Flow.Performs.go (k := k) (s := s) [e] t.phase t.busy s.tb t.seq (.act e [] [] true hpoll .done)
    (answeredBy_of_pollCount_eq_zero _ hcount) (fun _ => by rw [if_pos hcount])
  rw [afterEvents_act hpoll hrx] at hgo
  rw [ht]
  exact hgo

/-- A wait performs one poll that answers true (R77). -/
theorem waitFor_performs (k : Nat) (f : StatusFlag) (s : State) : (waitFor f s).Performs k [.poll f true] s := by
  rcases waitFor_cases f s with ⟨j, hj, hsilent, hans, he⟩ | ⟨hsilent, he⟩
  · have hanswered : AnsweredBy s.env (List.replicate j (.poll f false) ++ [.poll f true]) := by
      refine (answeredBy_failedPolls hsilent f).append ?_
      rw [pollCount_replicate, AnsweredBy]
      simp [pollAnswered, pollCount, Event.isPoll, hans]
    have hgo := Flow.Performs.go (k := k) (s := s) _ s.phase s.busy (s.params.timeoutLimit - j) s.seq
      (.waited f j [] [] true hj .done) hanswered fun hall => by
        have hj0 : j = 0 := by
          by_contra hne
          exact absurd (hall (.poll f false) (by simp [hne])) (by simp [Event.isFailedPoll])
        simp [hj0]
    rw [afterEvents_waited] at hgo
    rw [he]
    exact hgo
  · have hexp := Flow.Performs.expired (k := k) (s := s) _ (.expired f []) (answeredBy_failedPolls hsilent f)
    rw [afterEvents_failedPolls] at hexp
    rw [he]
    exact hexp

theorem runFlow_wait_performs (k : Nat) (f : StatusFlag) (s : State) :
    (runFlow [.wait f] s).Performs k [.poll f true] s :=
  (waitFor_performs k f s).andThen fun _ _ => .silent rfl

theorem runFlow_txBuf_performs (k : Nat) {j : Nat} {b : Byte} {s : State} (hj : j < s.params.bufSize)
    (hb : Memory.read s.buf j = some b) : (runFlow [.txBuf j] s).Performs k [.tx b] s := by
  have hdo : doOp (.txBuf j) s = .go (advanceIdx (emit (.tx b) s)) := txBufOp_ok hj hb
  rw [runFlow_go hdo]
  exact .act rfl rfl rfl

/-- A data byte of a READ is stored at its moment (R45). -/
theorem runFlow_rxBuf_performs {k : Nat} {b : Byte} {s : State} (hk : k < s.params.bufSize)
    (hb : s.env.rxAt 0 = b) : (runFlow [.rxBuf k] s).Performs k [.rx b] s := by
  have hdo : doOp (.rxBuf k) s = .go (advanceIdx { rx s with buf := Memory.write s.buf k (s.env.rxAt 0) }) :=
    rxBufOp_ok hk
  have hgo := Flow.Performs.go (k := k) (s := s) [.rx b] s.phase s.busy s.tb
    (s.seq.map fun p => { p with idx := p.idx + 1 }) (.act _ [] [] true rfl .done)
    (answeredBy_of_pollCount_eq_zero _ rfl) (fun _ => rfl)
  rw [afterEvents_rx, ← hb] at hgo
  rw [runFlow_go hdo, ← hb]
  exact hgo

end Sys2Proof.Machine
end

section
/-! Family other, WRITE and READ whole (R80, R86): the pieces of each put together, the two ways a transfer ends, and
the statements on given environments, in which the events are the nominal ones or stop at the first wait. -/

namespace Sys2Proof.Claims

open Sys2Proof.Machine

/-! The data of a READ. -/

/-- The nominal events of the bytes a READ of three or more receives in its loop (R90). -/
def loopEvents (xs : List Byte) : List Event := xs.flatMap (fun b => [.poll .rxne true, .rx b])

@[simp] theorem received_loopEvents (xs : List Byte) : (loopEvents xs).filterMap Event.received = xs := by
  induction xs with
  | nil => rfl
  | cons x xs ih => exact congrArg (x :: ·) ih

/-- The nominal events of a READ after its opening (R88, R89, R90). -/
def readTail (xs : List Byte) (stops : Bool) : List Event := (readEvents .released 0 xs stops).drop 4

theorem readEvents_eq (l : Line) (addr : BitVec 7) (xs : List Byte) (stops : Bool) :
    readEvents l addr xs stops = openingEvents l addr 1 ++ readTail xs stops := rfl

theorem readTail_one (x : Byte) (stops : Bool) :
    readTail [x] stops = [.ackOff, .clrAddr] ++ stopEvents stops ++ [.poll .rxne true, .rx x] := rfl

theorem readTail_two (x y : Byte) (stops : Bool) :
    readTail [x, y] stops =
      [.posOnAckOff, .clrAddr, .poll .btf true] ++ stopEvents stops ++ [.rx x, .rx y, .posOff] := rfl

theorem readTail_many (ys : List Byte) (x y z : Byte) (stops : Bool) :
    readTail (ys ++ [x, y, z]) stops =
      [.ackOn, .clrAddr] ++ loopEvents ys ++ [.poll .btf true, .ackOff, .rx x] ++ stopEvents stops ++
        [.rx y, .poll .rxne true, .rx z] := by
  rcases ys with _ | ⟨a, _ | ⟨b, ys⟩⟩ <;> simp [readTail, readEvents, openingEvents, loopEvents]

theorem exists_eq_append_three {xs : List Byte} (h : 3 ≤ xs.length) : ∃ ys x y z, xs = ys ++ [x, y, z] := by
  have hlen : (xs.drop (xs.length - 3)).length = 3 := by
    rw [List.length_drop]
    omega
  obtain ⟨x, y, z, hxyz⟩ := List.length_eq_three.1 hlen
  exact ⟨xs.take (xs.length - 3), x, y, z, by rw [← hxyz, List.take_append_drop]⟩

/-- The three lengths that a READ distinguishes (R86). -/
theorem readData_cases {xs : List Byte} (h : 0 < xs.length) :
    (∃ x, xs = [x]) ∨ (∃ x y, xs = [x, y]) ∨ ∃ ys x y z, xs = ys ++ [x, y, z] := by
  rcases xs with _ | ⟨x, _ | ⟨y, _ | ⟨z, zs⟩⟩⟩
  · cases h
  · exact .inl ⟨x, rfl⟩
  · exact .inr (.inl ⟨x, y, rfl⟩)
  · exact .inr (.inr (exists_eq_append_three (by simp)))

theorem envData_nextBytes (n : Nat) (s : State) : EnvData (nextBytes s.env n) s := by
  intro i hi
  simp only [nextBytes, List.length_map, List.length_range] at hi
  simp [nextBytes, hi]

@[simp] theorem length_nextBytes (e : Env) (n : Nat) : (nextBytes e n).length = n := by
  simp [nextBytes]

end Sys2Proof.Claims

namespace Sys2Proof.Machine

open Sys2Proof.Claims

/-! The pieces of a transfer. -/

theorem EnvData.head {x : Byte} {xs : List Byte} {s : State} (h : EnvData (x :: xs) s) : s.env.rxAt 0 = x :=
  (Option.some.inj (h 0 (Nat.succ_pos _))).symm

theorem EnvData.left {xs ys : List Byte} {s : State} (h : EnvData (xs ++ ys) s) : EnvData xs s := by
  intro i hi
  rw [← h i (by rw [List.length_append]; omega), List.getElem?_append_left hi]

/-- The bytes that are left to receive. -/
theorem Performed.envData {k : Nat} {n : List Event} {s t : State} (h : Performed k n s t) {xs ys : List Byte}
    (hn : n.filterMap Event.received = xs) (hd : EnvData (xs ++ ys) s) : EnvData ys t := by
  intro i hi
  have hat := hd (xs.length + i) (by rw [List.length_append]; omega)
  rw [h.rxs, hn, ← hat, List.getElem?_append_right (Nat.le_add_right _ _), Nat.add_sub_cancel_left]

/-- `transferHead` without the write of DIR that it begins with (R76, R78, R79). -/
def transferOpening (addr : BitVec 7) (d : Dir) : List CtrlOp := (transferHead addr d).tail

theorem runFlow_transferOpening_performs (k : Nat) (addr : BitVec 7) (d : Dir) (s : State) :
    (runFlow (transferOpening addr d) s).Performs k (openingEvents s.line addr d.bit.toNat) s := by
  have hstart : (runFlow [.setBusy true, .start] s).Performs k [.start s.line] s := .act rfl rfl rfl
  have haddress (t : State) : (runFlow [.emit (.tx (addressByte addr d)), .setPhase .addressPending] t).Performs k
      [.tx (BitVec.ofNat 8 (addr.toNat * 2 + d.bit.toNat))] t := by
    rw [addressByte_eq]
    exact .act rfl rfl rfl
  have hacked (t : State) : (runFlow [.setPhase .addressAcked] t).Performs k [] t := .silent rfl
  exact runFlow_append_performs hstart fun t _ =>
    runFlow_append_performs (runFlow_wait_performs k .sb t) fun t _ =>
    runFlow_append_performs (haddress t) fun t _ =>
    runFlow_append_performs (runFlow_wait_performs k .addr t) fun t _ => hacked t

theorem runFlow_stopPoint_performs (k : Nat) (stops : Bool) (s : State) :
    (runFlow (stopPoint stops) s).Performs k (stopEvents stops) s := by
  cases stops with
  | true => exact .act rfl rfl rfl
  | false => exact .silent rfl

@[simp] theorem received_stopEvents (stops : Bool) : (stopEvents stops).filterMap Event.received = [] := by
  cases stops <;> rfl

@[simp] theorem received_dataEvents (data : List Byte) : (dataEvents data).filterMap Event.received = [] := by
  induction data with
  | nil => rfl
  | cons b data ih => exact ih

theorem Performed.buf_eq {k : Nat} {n : List Event} {s t : State} (h : Performed k n s t)
    (hn : n.filterMap Event.received = []) : t.buf = s.buf := by
  rw [h.buf, hn]
  rfl

/-- WRITE's byte loop sends what BUF holds (R50, R80). -/
theorem runFlow_txLoop_performs (k : Nat) {j : Nat} {data : List Byte} {s : State}
    (hrange : j + data.length ≤ s.params.bufSize) (hbuf : BufHolds j data s) :
    (runFlow (txLoop j data.length) s).Performs k (dataEvents data) s := by
  induction data generalizing j s with
  | nil => exact .silent rfl
  | cons b data ih =>
    rw [List.length_cons] at hrange
    refine runFlow_append_performs (runFlow_wait_performs k .txe s) fun t ht => ?_
    have hbufT := hbuf.of_buf_eq (ht.buf_eq rfl)
    refine runFlow_append_performs (n := [.tx b])
      (runFlow_txBuf_performs k (by rw [ht.params]; omega) hbufT.head) fun u hu => ?_
    exact ih (by rw [hu.params, ht.params]; omega) (hbufT.tail.of_buf_eq (hu.buf_eq rfl))

/-- READ's loop stores what arrives, byte by byte (R90). -/
theorem runFlow_rxLoop_performs {k : Nat} {xs : List Byte} {s : State} (hrange : k + xs.length ≤ s.params.bufSize)
    (hdata : EnvData xs s) : (runFlow (rxLoop k xs.length) s).Performs k (loopEvents xs) s := by
  induction xs generalizing k s with
  | nil => exact .silent rfl
  | cons x xs ih =>
    rw [List.length_cons] at hrange
    refine runFlow_append_performs (runFlow_wait_performs k .rxne s) fun t ht => ?_
    have hdataT : EnvData (x :: xs) t := ht.envData (xs := []) rfl hdata
    refine runFlow_append_performs (n := [.rx x])
      (runFlow_rxBuf_performs (k := k) (by rw [ht.params]; omega) hdataT.head) fun u hu => ?_
    exact ih (k := k + 1) (by rw [hu.params, ht.params]; omega) (hu.envData (xs := [x]) rfl hdataT)

/-- WRITE between the write of DIR and `end_transfer` (R80). -/
def writeMain (addr : BitVec 7) (base len : Nat) (pend : Bool) : List CtrlOp :=
  transferOpening addr .write ++ ([.emit .clrAddr, .setPhase .transferring] ++
    (txLoop base len ++ ([.wait .btf] ++ stopPoint (!pend))))

theorem writeSequence_eq_main (addr : BitVec 7) (base len : Nat) (pend : Bool) :
    writeSequence addr base len pend = .setDir .write :: writeMain addr base len pend ++ endTransfer (!pend) := by
  simp [writeSequence, writeMain, transferOpening, transferHead]

theorem runFlow_writeMain_performs (k : Nat) {data : List Byte} {s : State} (addr : BitVec 7) (pend : Bool)
    (hrange : s.base + data.length ≤ s.params.bufSize) (hbuf : BufHolds s.base data s) :
    (runFlow (writeMain addr s.base data.length pend) s).Performs k (writeEvents s.line addr data (!pend)) s := by
  have hclear (t : State) : (runFlow [.emit .clrAddr, .setPhase .transferring] t).Performs k [.clrAddr] t :=
    .act rfl rfl rfl
  have hopened := runFlow_append_performs (runFlow_transferOpening_performs k addr .write s) fun t _ => hclear t
  have hsent := runFlow_append_performs hopened fun t ht =>
    runFlow_txLoop_performs (j := s.base) (data := data) k (by rwa [ht.params]) (hbuf.of_buf_eq (ht.buf_eq rfl))
  have hdrained := runFlow_append_performs hsent (fun t _ => runFlow_wait_performs k .btf t) (by
    rw [List.filterMap_append, received_dataEvents]; rfl)
  have hstopped := runFlow_append_performs hdrained (fun t _ => runFlow_stopPoint_performs k (!pend) t) (by
    rw [List.filterMap_append, List.filterMap_append, received_dataEvents]; rfl)
  rw [writeEvents_eq, writeOpening]
  simpa [writeMain, Dir.bit] using hstopped

/-- READ between the write of DIR and `end_transfer` (R86). -/
def readMain (addr : BitVec 7) (base len : Nat) (stops : Bool) : List CtrlOp :=
  transferOpening addr .read ++ readProcedure base len stops

theorem readSequence_eq_main (addr : BitVec 7) (base len : Nat) (stops : Bool) :
    readSequence addr base len stops = .setDir .read :: readMain addr base len stops ++ endTransfer stops := rfl

/-- What every READ does between its opening and its first byte (R87). -/
theorem runFlow_controls_performs {k : Nat} {e : Event} {s : State} (he : (runFlow [.emit e] s).Performs k [e] s)
    (hrx : e.received = none) :
    (runFlow [.emit e, .emit .clrAddr, .setPhase .transferring] s).Performs k [e, .clrAddr] s := by
  have hclear (t : State) : (runFlow [.emit .clrAddr, .setPhase .transferring] t).Performs k [.clrAddr] t :=
    .act rfl rfl rfl
  exact runFlow_append_performs he (fun t _ => hclear t) (by simp [hrx])

/-- `read1()` (R88). -/
theorem runFlow_read1_performs {k : Nat} {x : Byte} {s : State} (stops : Bool) (hrange : k + 1 ≤ s.params.bufSize)
    (hdata : EnvData [x] s) : (runFlow (read1 k stops) s).Performs k
      ([.ackOff, .clrAddr] ++ stopEvents stops ++ [.poll .rxne true, .rx x]) s := by
  have hcontrols := runFlow_controls_performs (k := k) (e := .ackOff) (s := s) (.act rfl rfl rfl) rfl
  have hstopped := runFlow_append_performs hcontrols fun t _ => runFlow_stopPoint_performs k stops t
  have hready := runFlow_append_performs hstopped (fun t _ => runFlow_wait_performs k .rxne t) (by cases stops <;> rfl)
  have hread := runFlow_append_performs hready (fun t ht =>
    runFlow_rxBuf_performs (k := k) (b := x) (by rw [ht.params]; omega)
      (ht.envData (xs := []) (by cases stops <;> rfl) hdata).head) (by cases stops <;> rfl)
  simpa [read1] using hread

/-- `read2()` (R89). -/
theorem runFlow_read2_performs {k : Nat} {x y : Byte} {s : State} (stops : Bool) (hrange : k + 2 ≤ s.params.bufSize)
    (hdata : EnvData [x, y] s) : (runFlow (read2 k stops) s).Performs k
      ([.posOnAckOff, .clrAddr, .poll .btf true] ++ stopEvents stops ++ [.rx x, .rx y, .posOff]) s := by
  have hcontrols := runFlow_controls_performs (k := k) (e := .posOnAckOff) (s := s) (.act rfl rfl rfl) rfl
  have hready := runFlow_append_performs hcontrols fun t _ => runFlow_wait_performs k .btf t
  have hstopped := runFlow_append_performs hready fun t _ => runFlow_stopPoint_performs k stops t
  have hfirst := runFlow_append_performs hstopped (fun t ht =>
    runFlow_rxBuf_performs (k := k) (b := x) (by rw [ht.params]; omega)
      (ht.envData (xs := []) (by cases stops <;> rfl) hdata).head) (by cases stops <;> rfl)
  have hsecond := runFlow_append_performs hfirst (fun t ht =>
    runFlow_rxBuf_performs (k := k + 1) (b := y) (by rw [ht.params]; omega)
      (ht.envData (xs := [x]) (by cases stops <;> rfl) hdata).head) (by cases stops <;> rfl)
  have hposOff (t : State) : (runFlow [.emit .posOff] t).Performs (k + 2) [.posOff] t := .act rfl rfl rfl
  have hread := runFlow_append_performs hsecond (fun t _ => hposOff t) (by cases stops <;> rfl)
  simpa [read2] using hread

/-- `readN()`: the loop, then the last three bytes (R90). -/
theorem runFlow_readN_performs {k : Nat} {ys : List Byte} {x y z : Byte} {s : State} (stops : Bool)
    (hrange : k + (ys.length + 3) ≤ s.params.bufSize) (hdata : EnvData (ys ++ [x, y, z]) s) :
    (runFlow (readN k (ys.length + 3) stops) s).Performs k
      ([.ackOn, .clrAddr] ++ loopEvents ys ++ [.poll .btf true, .ackOff, .rx x] ++ stopEvents stops ++
        [.rx y, .poll .rxne true, .rx z]) s := by
  have hcontrols := runFlow_controls_performs (k := k) (e := .ackOn) (s := s) (.act rfl rfl rfl) rfl
  have hloop := runFlow_append_performs hcontrols fun t ht =>
    runFlow_rxLoop_performs (k := k) (xs := ys) (by rw [ht.params]; omega) (ht.envData (xs := []) rfl hdata).left
  have hready := runFlow_append_performs hloop (fun t _ => runFlow_wait_performs (k + ys.length) .btf t) (by
    simp [List.filterMap_cons, Event.received])
  have hackOff (t : State) : (runFlow [.emit .ackOff] t).Performs (k + ys.length) [.ackOff] t := .act rfl rfl rfl
  have hacked := runFlow_append_performs hready (fun t _ => hackOff t) (by
    simp [List.filterMap_cons, Event.received])
  have hfirst := runFlow_append_performs hacked (fun t ht =>
    runFlow_rxBuf_performs (k := k + ys.length) (b := x) (by rw [ht.params]; omega)
      (ht.envData (xs := ys) (by simp [List.filterMap_cons, Event.received]) hdata).head) (by
    simp [List.filterMap_cons, Event.received])
  have hstopped := runFlow_append_performs hfirst
    (fun t _ => runFlow_stopPoint_performs (k + ys.length + 1) stops t) (by
    simp [List.filterMap_cons, Event.received, Nat.add_assoc])
  have hsecond := runFlow_append_performs hstopped (fun t ht =>
    runFlow_rxBuf_performs (k := k + ys.length + 1) (b := y) (by rw [ht.params]; omega)
      (ht.envData (xs := ys ++ [x]) (by simp [List.filterMap_cons, Event.received]) (by simpa using hdata)).head) (by
    simp [List.filterMap_cons, Event.received, Nat.add_assoc])
  have hlast := runFlow_append_performs hsecond
    (fun t _ => runFlow_wait_performs (k + ys.length + 2) .rxne t) (by
    simp [List.filterMap_cons, Event.received, Nat.add_assoc])
  have hread := runFlow_append_performs hlast (fun t ht =>
    runFlow_rxBuf_performs (k := k + ys.length + 2) (b := z) (by rw [ht.params]; omega)
      (ht.envData (xs := ys ++ [x, y]) (by simp [List.filterMap_cons, Event.received]) (by simpa using hdata)).head) (by
    simp [List.filterMap_cons, Event.received, Nat.add_assoc])
  simpa [readN, ← Nat.add_assoc] using hread

/-- A READ up to its `end_transfer`, chosen by how many bytes it reads (R86). -/
theorem runFlow_readMain_performs {xs : List Byte} {s : State} (addr : BitVec 7) (stops : Bool) (hlen : 0 < xs.length)
    (hrange : s.base + xs.length ≤ s.params.bufSize) (hdata : EnvData xs s) :
    (runFlow (readMain addr s.base xs.length stops) s).Performs s.base (readEvents s.line addr xs stops) s := by
  have hopened := runFlow_transferOpening_performs s.base addr .read s
  rcases readData_cases hlen with ⟨x, rfl⟩ | ⟨x, y, rfl⟩ | ⟨ys, x, y, z, rfl⟩
  · exact runFlow_append_performs hopened fun t ht =>
      runFlow_read1_performs stops (by rwa [ht.params]) (ht.envData (xs := []) rfl hdata)
  · exact runFlow_append_performs hopened fun t ht =>
      runFlow_read2_performs stops (by rwa [ht.params]) (ht.envData (xs := []) rfl hdata)
  · have hlength : (ys ++ [x, y, z]).length = ys.length + 3 := by simp
    have hprocedure : readProcedure s.base (ys.length + 3) stops = readN s.base (ys.length + 3) stops := by
      simp [readProcedure]
    rw [hlength] at hrange ⊢
    rw [readEvents_eq, readTail_many, readMain, hprocedure]
    exact runFlow_append_performs hopened fun t ht =>
      runFlow_readN_performs (k := s.base) stops (by rwa [ht.params]) (ht.envData (xs := []) rfl hdata)

/-! A whole transfer. -/

/-- How a transfer in direction `d` with the nominal events `n` ends: Ok, when all of them have happened, with LINE by
whether it asserted STOP (R81); or TimeoutError, when a wait has expired (R83). Either way its events are answered by
the environment in order, and what they say of BUF, ACK and POS has happened. -/
inductive Transferred (n : List Event) (d : Dir) (stops : Bool) (s : State) : State → Prop where
  | completed (g : List Event) (tb : Nat) (follows : Follows s.params.timeoutLimit n g true)
      (answered : AnsweredBy s.env g)
      (watchdog : (∀ e ∈ g, e.isFailedPoll = false) →
        tb = if pollCount g = 0 then s.tb else s.params.timeoutLimit) :
      Transferred n d stops s { s.afterEvents s.base g with
        dir := d, busy := false, phase := .idle, line := if stops then .released else .held, tb := tb
        result := 0, seq := none }
  | timedOut (g : List Event) (follows : Follows s.params.timeoutLimit n g false) (answered : AnsweredBy s.env g) :
      Transferred n d stops s { s.afterEvents s.base g with
        dir := d, busy := false, phase := .timedOut, line := .unknown, tb := 0, result := 2, seq := none }

/-- `end_transfer`, whole (R81, R104). -/
theorem runFlow_endTransfer_eq (stops : Bool) (s : State) :
    runFlow (endTransfer stops) s = .ended { s with
      line := if stops then .released else .held, phase := .idle, busy := false, result := 0, seq := none } := by
  cases stops <;> rfl

/-- A transfer whose main part performs its nominal events is such a transfer. -/
theorem runOps_transferred {n : List Event} {d : Dir} {main : List CtrlOp} {s : State} (stops : Bool)
    (hmain : (runFlow main { s with dir := d }).Performs s.base n { s with dir := d }) :
    ∃ t, runOps (.setDir d :: main ++ endTransfer stops) s = .next t ∧ Transferred n d stops s t := by
  have hrun : runOps (.setDir d :: main ++ endTransfer stops) s =
      runOps (main ++ endTransfer stops) { s with dir := d } := rfl
  rw [hrun, runOps, runFlow_append]
  generalize runFlow main { s with dir := d } = x at hmain
  cases hmain with
  | go g p b tb q hg ha hw =>
    rw [Flow.andThen_go, runFlow_endTransfer_eq]
    exact ⟨_, rfl, .completed g tb hg ha hw⟩
  | expired g hg ha => exact ⟨_, rfl, .timedOut g hg ha⟩

theorem exec_write_transferred {data : List Byte} {s : State} (addr : BitVec 7) (pend : Bool)
    (hready : TransferReady data.length true s) (hbuf : BufHolds s.base data s) :
    ∃ t, exec (.write addr data.length pend true) s = .next t ∧
      Transferred (writeEvents s.line addr data (!pend)) .write (!pend) s t := by
  rw [exec_write_ready addr pend hready hbuf, writeSequence_eq_main]
  exact runOps_transferred (!pend)
    (runFlow_writeMain_performs (s := { s with dir := .write }) _ addr pend hready.2.2 hbuf)

theorem exec_read_transferred {xs : List Byte} {s : State} (addr : BitVec 7) (pend : Bool)
    (hready : TransferReady xs.length true s) (hdata : EnvData xs s) :
    ∃ t, exec (.read addr xs.length pend true) s = .next t ∧
      Transferred (readEvents s.line addr xs (assertsStop s.params pend)) .read (assertsStop s.params pend) s t := by
  rw [exec, execRead, readOps, if_pos ((transferChecksPass_iff _ _ _).2 hready), readSequence_eq_main]
  exact runOps_transferred (assertsStop s.params pend)
    (runFlow_readMain_performs (s := { s with dir := .read }) addr _ hready.2.1 hready.2.2 hdata)

/-! The statements for every environment. -/

/-- A transfer that does not pass its checks (R73, R74). -/
theorem transferChecksPass_eq_false_of_not_ready {len : Nat} {bufv : Bool} {s : State}
    (h : ¬ TransferReady len bufv s) : transferChecksPass len bufv s = false := by
  rwa [Bool.eq_false_iff, ne_eq, transferChecksPass_iff]

/-- A WRITE over an undefined byte (R62). -/
theorem exec_write_undefined {len : Nat} {s : State} (addr : BitVec 7) (pend : Bool)
    (hready : TransferReady len true s) (hnone : ∃ k, k < len ∧ Memory.read s.buf (s.base + k) = none) :
    exec (.write addr len pend true) s = .fault .undefinedBufferByte := by
  obtain ⟨k, hk, hread⟩ := hnone
  have hdef : ¬ Memory.definedFrom s.buf s.base len = true := by
    rw [Memory.definedFrom_iff]
    exact fun h => h k hk hread
  rw [exec, execWrite, writeOps, if_pos ((transferChecksPass_iff _ _ _).2 hready), if_neg hdef]
  rfl

end Sys2Proof.Machine
end

section
/-! Family other, every command (41_transaction_executor.md, 42_read_sequencer.md, 60_exceptions.md): WRITE and READ
for every environment, and from them the ways in which each command ends. -/

namespace Sys2Proof.Claims

open Sys2Proof.Machine

/-! Events that set nothing. -/

/-- Does the event write ACK in a transfer (R37)? -/
def setsAck : Event → Bool
  | .ackOn => true
  | .ackOff => true
  | .posOnAckOff => true
  | _ => false

/-- Does the event write POS in a transfer (R37)? -/
def setsPos : Event → Bool
  | .posOnAckOff => true
  | .posOff => true
  | _ => false

theorem ackAfterEvents_of_leaves {g : List Event} (a : Bool) (h : ∀ e ∈ g, setsAck e = false) :
    ackAfterEvents a g = a := by
  induction g with
  | nil => rfl
  | cons e g ih =>
    obtain ⟨he, hg⟩ := List.forall_mem_cons.1 h
    cases e with
    | ackOn => cases he
    | ackOff => cases he
    | posOnAckOff => cases he
    | _ => exact ih hg

theorem posAfterEvents_of_leaves {g : List Event} (p : Bool) (h : ∀ e ∈ g, setsPos e = false) :
    posAfterEvents p g = p := by
  induction g with
  | nil => rfl
  | cons e g ih =>
    obtain ⟨he, hg⟩ := List.forall_mem_cons.1 h
    cases e with
    | posOnAckOff => cases he
    | posOff => cases he
    | _ => exact ih hg

/-- What holds of the nominal events and of every poll holds of the events that follow them. -/
theorem Follows.forall_mem {limit : Nat} {n g : List Event} {ok : Bool} (h : Follows limit n g ok) {p : Event → Prop}
    (hpoll : ∀ f v, p (.poll f v)) (hn : ∀ e ∈ n, p e) : ∀ e ∈ g, p e := by
  intro e he
  cases hfailed : e.isFailedPoll with
  | false => exact hn e (h.mem_nominal he hfailed)
  | true =>
    cases e with
    | poll f v => exact hpoll f v
    | _ => cases hfailed

theorem dataEvents_forall {p : Event → Prop} {data : List Byte} (hpoll : p (.poll .txe true)) (htx : ∀ b, p (.tx b)) :
    ∀ e ∈ dataEvents data, p e := by
  intro e he
  simp only [dataEvents, List.mem_flatMap, List.mem_cons, List.not_mem_nil, or_false] at he
  obtain ⟨b, -, rfl | rfl⟩ := he
  · exact hpoll
  · exact htx b

theorem loopEvents_forall {p : Event → Prop} {xs : List Byte} (hpoll : p (.poll .rxne true)) (hrx : ∀ b, p (.rx b)) :
    ∀ e ∈ loopEvents xs, p e := by
  intro e he
  simp only [loopEvents, List.mem_flatMap, List.mem_cons, List.not_mem_nil, or_false] at he
  obtain ⟨b, -, rfl | rfl⟩ := he
  · exact hpoll
  · exact hrx b

/-- The nominal events of a WRITE receive nothing and leave ACK and POS. -/
theorem writeEvents_leave (l : Line) (addr : BitVec 7) (data : List Byte) (stops : Bool) :
    ∀ e ∈ writeEvents l addr data stops, e.received = none ∧ setsAck e = false ∧ setsPos e = false := by
  rw [writeEvents_eq]
  simp only [List.forall_mem_append]
  refine ⟨?_, dataEvents_forall ⟨rfl, rfl, rfl⟩ fun _ => ⟨rfl, rfl, rfl⟩, ?_⟩
  · simp [writeOpening, openingEvents, Event.received, setsAck, setsPos]
  · cases stops <;> simp [stopEvents, Event.received, setsAck, setsPos]

end Sys2Proof.Claims

namespace Sys2Proof.Machine

open Sys2Proof.Claims

/-- Events that receive nothing and leave ACK and POS. -/
theorem afterEvents_of_leaves {g : List Event}
    (h : ∀ e ∈ g, e.received = none ∧ setsAck e = false ∧ setsPos e = false) (k : Nat) (s : State) :
    s.afterEvents k g = { s with trace := s.trace ++ g, env := s.env.afterPolls (pollCount g) } := by
  have hrx : g.filterMap Event.received = [] := List.filterMap_eq_nil_iff.2 fun e he => (h e he).1
  rw [State.afterEvents, hrx, ackAfterEvents_of_leaves _ fun e he => (h e he).2.1,
    posAfterEvents_of_leaves _ fun e he => (h e he).2.2, List.length_nil, Env.afterRxs_zero]
  rfl

/-- A WRITE, at whatever point it is, has only sent (R80). -/
theorem afterEvents_of_write {limit : Nat} {l : Line} {addr : BitVec 7} {data : List Byte} {stops : Bool}
    {g : List Event} {ok : Bool} (h : Follows limit (writeEvents l addr data stops) g ok) (k : Nat) (s : State) :
    s.afterEvents k g = { s with trace := s.trace ++ g, env := s.env.afterPolls (pollCount g) } :=
  afterEvents_of_leaves (h.forall_mem (fun _ _ => ⟨rfl, rfl, rfl⟩) (writeEvents_leave l addr data stops)) k s

/-- Settles O38: the checks, the undefined byte, and the two ends of a transfer, with what a WRITE's events leave. -/
theorem writeFollowsItsProcedure : Obligations.WriteFollowsItsProcedure := by
  intro addr len pend bufv s
  refine ⟨fun h => ?checks, fun hready hnone => ?undefined, fun hready data hlen hbuf => ?procedure⟩
  case checks => exact exec_write_checksFail addr pend (transferChecksPass_eq_false_of_not_ready h)
  case undefined =>
    obtain rfl := hready.1
    exact exec_write_undefined addr pend hready hnone
  case procedure =>
    obtain rfl := hready.1
    subst hlen
    obtain ⟨t, ht, hend⟩ := exec_write_transferred addr pend hready hbuf
    cases hend with
    | completed g tb hg ha hw =>
      refine ⟨_, g, true, ht, hg, ha, ?_⟩
      rw [afterEvents_of_write hg]
      cases pend <;> rfl
    | timedOut g hg ha =>
      refine ⟨_, g, false, ht, hg, ha, ?_⟩
      rw [afterEvents_of_write hg]
      rfl

/-- Settles O43: the checks and the two ends of a transfer, the bytes received being the environment's next. -/
theorem readFollowsItsProcedure : Obligations.ReadFollowsItsProcedure := by
  intro addr len pend bufv s
  refine ⟨fun h => ?checks, fun hready => ?procedure⟩
  case checks => exact exec_read_checksFail addr pend (transferChecksPass_eq_false_of_not_ready h)
  case procedure =>
    obtain rfl := hready.1
    have hrun := exec_read_transferred (xs := nextBytes s.env len) addr pend (by rwa [length_nextBytes])
      (envData_nextBytes len s)
    rw [length_nextBytes] at hrun
    obtain ⟨t, ht, hend⟩ := hrun
    cases hend with
    | completed g tb hg ha hw => exact ⟨_, g, true, ht, hg, ha, rfl⟩
    | timedOut g hg ha => exact ⟨_, g, false, ht, hg, ha, rfl⟩

/-! How each command ends. -/

/-- The ways in which a command completes, with its whole next state. -/
inductive Completed (s : State) : Instr → State → Prop where
  | init : Completed s .init { s with
      trace := s.trace ++ [.pinsCfg, .periphReset, .clkCfg] ++ (if s.params.initEnables then [.enable] else [])
      ack := false, pos := false, enabled := s.params.initEnables, cfg := some (busConfig s.params)
      initialized := true, phase := .idle, line := .released, busy := false, dir := .write, result := 0, seq := none }
  | uninit : Completed s .uninit { s with
      trace := s.trace ++ [.disable], enabled := false, initialized := false, cfg := none
      ack := false, pos := false, phase := .idle, line := .released, result := 0, seq := none }
  | powerOff : Completed s (.power .off) { s with
      trace := s.trace ++ [.disable], enabled := false, line := .released, result := 0, seq := none }
  | powerFull : Completed s (.power .full) { s with
      trace := s.trace ++ [.enable], enabled := true, result := 0, seq := none }
  | powerLow : Completed s (.power .low) { s with result := 3, seq := none }
  | powerUnnamed : Completed s (.power .unnamed) { s with result := 3, seq := none }
  | controlStandard : Completed s (.control 1 1) { s with result := 0, seq := none }
  | controlOther (option value : Nat) (h : ¬ (option = 1 ∧ value = 1)) :
      Completed s (.control option value) { s with result := 3, seq := none }
  | getStatus : Completed s .getStatus { s with rdata := statusWord s.dir s.busy, result := 0, seq := none }
  | getVersion : Completed s .getVersion { s with rdata := s.params.versionWord, result := 0, seq := none }
  | getCapabilities : Completed s .getCapabilities { s with rdata := 0, result := 0, seq := none }
  | slaveTx : Completed s .slaveTx { s with result := 3, seq := none }
  | slaveRx : Completed s .slaveRx { s with result := 3, seq := none }
  | writeRejected (addr : BitVec 7) (len : Nat) (pend bufv : Bool) (h : ¬ TransferReady len bufv s) :
      Completed s (.write addr len pend bufv) { s with result := 1, seq := none }
  | readRejected (addr : BitVec 7) (len : Nat) (pend bufv : Bool) (h : ¬ TransferReady len bufv s) :
      Completed s (.read addr len pend bufv) { s with result := 1, seq := none }
  | write (addr : BitVec 7) (data : List Byte) (pend : Bool) (t : State) (ready : TransferReady data.length true s)
      (run : Transferred (writeEvents s.line addr data (!pend)) .write (!pend) s t) :
      Completed s (.write addr data.length pend true) t
  | read (addr : BitVec 7) (xs : List Byte) (pend : Bool) (t : State) (ready : TransferReady xs.length true s)
      (run : Transferred (readEvents s.line addr xs (assertsStop s.params pend)) .read (assertsStop s.params pend) s t) :
      Completed s (.read addr xs.length pend true) t

/-- BUF's bytes in a range that is defined. -/
theorem exists_bufHolds {k n : Nat} {s : State} (h : ∀ i, i < n → Memory.read s.buf (k + i) ≠ none) :
    ∃ data : List Byte, data.length = n ∧ BufHolds k data s := by
  refine ⟨(List.range n).map fun i => (Memory.read s.buf (k + i)).getD 0, by simp, fun i hi => ?_⟩
  have hin : i < n := by simpa using hi
  obtain ⟨b, hb⟩ := Option.ne_none_iff_exists'.1 (h i hin)
  simp [hin, hb]

/-- Is the command a WRITE that passes its checks over a range with an undefined byte (R62)? -/
def SendsUndefined (i : Instr) (s : State) : Prop :=
  ∃ addr len pend, i = .write addr len pend true ∧ TransferReady len true s ∧
    ∃ k, k < len ∧ Memory.read s.buf (s.base + k) = none

/-- Every command completes in one of its ways, or is a WRITE over an undefined byte. -/
theorem exec_ends (i : Instr) (s : State) :
    (∃ t, exec i s = .next t ∧ Completed s i t) ∨
    (SendsUndefined i s ∧ exec i s = .fault .undefinedBufferByte) := by
  cases i with
  | init => exact .inl ⟨_, initEffect.2 s, .init⟩
  | uninit => exact .inl ⟨_, uninitEffect.2 s, .uninit⟩
  | power st =>
    obtain ⟨-, -, -, -, hpower⟩ := powerEffect
    obtain ⟨hfull, hoff, hlow, hunnamed⟩ := hpower s
    cases st with
    | off => exact .inl ⟨_, hoff, .powerOff⟩
    | low => exact .inl ⟨_, hlow, .powerLow⟩
    | full => exact .inl ⟨_, hfull, .powerFull⟩
    | unnamed => exact .inl ⟨_, hunnamed, .powerUnnamed⟩
  | control option value =>
    by_cases h : option = 1 ∧ value = 1
    · obtain ⟨rfl, rfl⟩ := h
      exact .inl ⟨_, exec_control_standard s, .controlStandard⟩
    · exact .inl ⟨_, exec_control_unsupported s h, .controlOther option value h⟩
  | getStatus => exact .inl ⟨_, exec_getStatus s, .getStatus⟩
  | getVersion => exact .inl ⟨_, exec_getVersion s, .getVersion⟩
  | getCapabilities => exact .inl ⟨_, exec_getCapabilities s, .getCapabilities⟩
  | slaveTx => exact .inl ⟨_, exec_slaveTx s, .slaveTx⟩
  | slaveRx => exact .inl ⟨_, exec_slaveRx s, .slaveRx⟩
  | write addr len pend bufv =>
    by_cases hready : TransferReady len bufv s
    · obtain rfl := hready.1
      by_cases hdef : ∀ k, k < len → Memory.read s.buf (s.base + k) ≠ none
      · obtain ⟨data, rfl, hbuf⟩ := exists_bufHolds hdef
        obtain ⟨t, ht, hend⟩ := exec_write_transferred addr pend hready hbuf
        exact .inl ⟨t, ht, .write addr data pend t hready hend⟩
      · push Not at hdef
        exact .inr ⟨⟨addr, len, pend, rfl, hready, hdef⟩, exec_write_undefined addr pend hready hdef⟩
    · exact .inl ⟨_, exec_write_checksFail addr pend (transferChecksPass_eq_false_of_not_ready hready),
        .writeRejected addr len pend bufv hready⟩
  | read addr len pend bufv =>
    by_cases hready : TransferReady len bufv s
    · obtain rfl := hready.1
      have hlen := length_nextBytes s.env len
      rw [← hlen] at hready ⊢
      obtain ⟨t, ht, hend⟩ := exec_read_transferred addr pend hready (envData_nextBytes len s)
      exact .inl ⟨t, ht, .read addr _ pend t hready hend⟩
    · exact .inl ⟨_, exec_read_checksFail addr pend (transferChecksPass_eq_false_of_not_ready hready),
        .readRejected addr len pend bufv hready⟩

/-- A command that completes does so in one of its ways. -/
theorem exec_completed {i : Instr} {s t : State} (h : exec i s = .next t) : Completed s i t := by
  rcases exec_ends i s with ⟨u, hu, hc⟩ | ⟨-, hfault⟩
  · rw [hu] at h
    cases h
    exact hc
  · rw [hfault] at h
    cases h

/-- Settles O36: every command completes but the one. -/
theorem onlyUndefinedWriteFaults : Obligations.OnlyUndefinedWriteFaults := by
  refine fun i s => ⟨exec_ne_refused i s, fun r => ⟨fun h => ?_, ?_⟩⟩
  · rcases exec_ends i s with ⟨t, ht, -⟩ | ⟨hundef, hfault⟩
    · rw [ht] at h
      cases h
    · rw [hfault] at h
      cases h
      exact ⟨rfl, hundef⟩
  · rintro ⟨rfl, addr, len, pend, rfl, hready, hnone⟩
    exact exec_write_undefined addr pend hready hnone

end Sys2Proof.Machine
end

section
/-! Family other, what every command leaves (10_state.md, 41_transaction_executor.md, 60_exceptions.md): each statement
goes through the ways a command completes; of a transfer it needs a fact about its nominal events. -/

namespace Sys2Proof.Claims

open Sys2Proof.Machine

/-! Events that follow the nominal ones: how many polls, and which of the others. -/

/-- A wait makes at most as many polls as the watchdog allows (R77). -/
theorem Follows.pollCount_le {limit : Nat} {n g : List Event} {ok : Bool} (h : Follows limit n g ok) :
    pollCount g ≤ pollCount n * limit := by
  induction h with
  | done => exact Nat.zero_le _
  | act e n g ok he _ ih => rwa [pollCount_cons_of_not_poll he, pollCount_cons_of_not_poll he]
  | waited f j n g ok hj _ ih =>
    rw [pollCount_append, pollCount_replicate, pollCount_poll_cons, pollCount_poll_cons, Nat.add_mul]
    omega
  | expired f n =>
    rw [pollCount_replicate, pollCount_poll_cons, Nat.add_mul]
    omega

/-- The successes are the first of the nominal events. -/
theorem Follows.successes_isPrefix {limit : Nat} {n g : List Event} {ok : Bool} (h : Follows limit n g ok) :
    successes g <+: n := by
  cases ok with
  | true => rw [h.successes_eq]
  | false =>
    obtain ⟨f, rest, hsplit, -⟩ := h.expired_split
    exact ⟨_, hsplit.symm⟩

/-- The bytes received are the first of the nominal ones. -/
theorem Follows.received_isPrefix {limit : Nat} {n g : List Event} {ok : Bool} (h : Follows limit n g ok) :
    g.filterMap Event.received <+: n.filterMap Event.received := by
  rw [← received_successes]
  exact h.successes_isPrefix.filterMap _

/-- An event that is no poll comes first when it comes first nominally. -/
theorem Follows.cons_of_not_poll {limit : Nat} {e : Event} {n g : List Event} {ok : Bool} (he : e.isPoll = false)
    (h : Follows limit (e :: n) g ok) : ∃ g', g = e :: g' ∧ Follows limit n g' ok := by
  cases h with
  | act e n g ok _ r => exact ⟨_, rfl, r⟩
  | waited f j n g ok hj r => cases he
  | expired f n => cases he

theorem stopCount_append (g k : List Event) : stopCount (g ++ k) = stopCount g + stopCount k := List.countP_append

theorem stopCount_eq_zero {g : List Event} (h : ∀ e ∈ g, e.isStop = false) : stopCount g = 0 :=
  List.countP_eq_zero.2 fun e he => by rw [h e he]; exact Bool.false_ne_true

theorem stopCount_successes (g : List Event) : stopCount (successes g) = stopCount g := by
  have hcongr : ∀ e ∈ g, (e.isStop && !e.isFailedPoll) = true ↔ e.isStop = true := by
    intro e _
    cases e <;> simp [Event.isStop, Event.isFailedPoll]
  rw [stopCount, successes, List.countP_filter]
  exact List.countP_congr hcongr

theorem ackAfterEvents_successes (a : Bool) (g : List Event) :
    ackAfterEvents a (successes g) = ackAfterEvents a g := by
  induction g generalizing a with
  | nil => rfl
  | cons e g ih =>
    cases e with
    | poll f v => cases v <;> exact ih a
    | _ => exact ih _

theorem posAfterEvents_successes (p : Bool) (g : List Event) :
    posAfterEvents p (successes g) = posAfterEvents p g := by
  induction g generalizing p with
  | nil => rfl
  | cons e g ih =>
    cases e with
    | poll f v => cases v <;> exact ih p
    | _ => exact ih _

/-- A list that ends with `b`, split at an element that is not in `b`. -/
theorem split_before_of_notMem {α : Type} {p : α} {a b m rest : List α} (hp : p ∉ b) (h : a ++ b = m ++ p :: rest) :
    ∃ r, a = m ++ p :: r := by
  rcases List.append_eq_append_iff.1 h with ⟨c, -, hb⟩ | ⟨c, ha, hc⟩
  · exact absurd (by simp [hb]) hp
  · cases c with
    | nil =>
      rw [List.nil_append] at hc
      exact absurd (by simp [← hc]) hp
    | cons q c =>
      obtain ⟨rfl, -⟩ := List.cons.inj hc
      exact ⟨c, ha⟩

/-! The nominal events. -/

theorem pollCount_dataEvents (data : List Byte) : pollCount (dataEvents data) = data.length := by
  induction data with
  | nil => rfl
  | cons b data ih =>
    rw [dataEvents_cons, pollCount_poll_cons, pollCount_cons_of_not_poll rfl, ih, List.length_cons]

theorem pollCount_loopEvents (xs : List Byte) : pollCount (loopEvents xs) = xs.length := by
  induction xs with
  | nil => rfl
  | cons x xs ih =>
    have hcons : loopEvents (x :: xs) = .poll .rxne true :: .rx x :: loopEvents xs := rfl
    rw [hcons, pollCount_poll_cons, pollCount_cons_of_not_poll rfl, ih, List.length_cons]

theorem pollCount_writeEvents (l : Line) (addr : BitVec 7) (data : List Byte) (stops : Bool) :
    pollCount (writeEvents l addr data stops) = data.length + 3 := by
  have htail : pollCount (.poll .btf true :: stopEvents stops) = 1 := by cases stops <;> rfl
  have hopening : pollCount (writeOpening l addr) = 2 := rfl
  rw [writeEvents_eq, pollCount_append, pollCount_append, pollCount_dataEvents, htail, hopening]
  omega

theorem pollCount_readEvents_one (l : Line) (addr : BitVec 7) (x : Byte) (stops : Bool) :
    pollCount (readEvents l addr [x] stops) = 3 := by
  cases stops <;> rfl

theorem pollCount_readEvents_two (l : Line) (addr : BitVec 7) (x y : Byte) (stops : Bool) :
    pollCount (readEvents l addr [x, y] stops) = 3 := by
  cases stops <;> rfl

/-- A READ of three or more waits for each byte but two, for BTF, and twice in its opening (R90). -/
theorem pollCount_readEvents_many (l : Line) (addr : BitVec 7) (ys : List Byte) (x y z : Byte) (stops : Bool) :
    pollCount (readEvents l addr (ys ++ [x, y, z]) stops) = ys.length + 4 := by
  have hopening : pollCount (openingEvents l addr 1) = 2 := rfl
  have hstop : pollCount (stopEvents stops) = 0 := by cases stops <;> rfl
  have hcontrols : pollCount [.ackOn, .clrAddr] = 0 := rfl
  have hmid : pollCount [.poll .btf true, .ackOff, .rx x] = 1 := rfl
  have hend : pollCount [.rx y, .poll .rxne true, .rx z] = 1 := rfl
  rw [readEvents_eq, readTail_many]
  simp only [pollCount_append, pollCount_loopEvents, hopening, hstop, hcontrols, hmid, hend]
  omega

theorem pollCount_readEvents_le {xs : List Byte} (l : Line) (addr : BitVec 7) (stops : Bool) (h : 0 < xs.length) :
    pollCount (readEvents l addr xs stops) ≤ xs.length + 3 := by
  rcases readData_cases h with ⟨x, rfl⟩ | ⟨x, y, rfl⟩ | ⟨ys, x, y, z, rfl⟩
  · rw [pollCount_readEvents_one]
    exact Nat.le_of_ble_eq_true rfl
  · rw [pollCount_readEvents_two]
    exact Nat.le_of_ble_eq_true rfl
  · rw [pollCount_readEvents_many, List.length_append]
    exact Nat.add_le_add_left (Nat.le_of_ble_eq_true (n := 4) (m := 6) rfl) _

/-- What a READ's nominal events receive is its data. -/
theorem received_readEvents (l : Line) (addr : BitVec 7) {xs : List Byte} (stops : Bool) (h : 0 < xs.length) :
    (readEvents l addr xs stops).filterMap Event.received = xs := by
  have hopening : (openingEvents l addr 1).filterMap Event.received = [] := rfl
  rw [readEvents_eq, List.filterMap_append, hopening, List.nil_append]
  rcases readData_cases h with ⟨x, rfl⟩ | ⟨x, y, rfl⟩ | ⟨ys, x, y, z, rfl⟩
  · cases stops <;> rfl
  · cases stops <;> rfl
  · rw [readTail_many]
    simp [List.filterMap_cons, Event.received]

theorem received_writeEvents (l : Line) (addr : BitVec 7) (data : List Byte) (stops : Bool) :
    (writeEvents l addr data stops).filterMap Event.received = [] :=
  List.filterMap_eq_nil_iff.2 fun e he => (writeEvents_leave l addr data stops e he).1

/-- Is the event one that a READ makes after its opening: no START, no TX, no poll of SB or ADDR? -/
def afterOpening : Event → Bool
  | .start _ => false
  | .tx _ => false
  | .poll .sb _ => false
  | .poll .addr _ => false
  | _ => true

@[simp] theorem all_afterOpening_stopEvents (stops : Bool) : (stopEvents stops).all afterOpening = true := by
  cases stops <;> rfl

theorem readTail_afterOpening {xs : List Byte} (stops : Bool) (h : 0 < xs.length) :
    (readTail xs stops).all afterOpening = true := by
  rcases readData_cases h with ⟨x, rfl⟩ | ⟨x, y, rfl⟩ | ⟨ys, x, y, z, rfl⟩
  · simp [readTail_one, afterOpening]
  · simp [readTail_two, afterOpening]
  · have hloop : (loopEvents ys).all afterOpening = true :=
      List.all_eq_true.2 (loopEvents_forall rfl fun _ => rfl)
    simp [readTail_many, afterOpening, hloop]

/-- A START first, and no other, in either transfer (R78). -/
theorem writeEvents_start (l : Line) (addr : BitVec 7) (data : List Byte) (stops : Bool) :
    ∃ rest, writeEvents l addr data stops = .start l :: rest ∧ ∀ e ∈ rest, ∀ l', e ≠ .start l' := by
  have hevents : writeEvents l addr data stops =
      .start l :: ([.poll .sb true, .tx (BitVec.ofNat 8 (addr.toNat * 2)), .poll .addr true, .clrAddr] ++
        (dataEvents data ++ (.poll .btf true :: stopEvents stops))) := writeEvents_eq l addr data stops
  refine ⟨_, hevents, ?_⟩
  simp only [List.forall_mem_append]
  refine ⟨?_, dataEvents_forall (fun _ => nofun) (fun _ _ => nofun), ?_⟩
  · simp
  · cases stops <;> simp [stopEvents]

theorem readEvents_start (l : Line) (addr : BitVec 7) {xs : List Byte} (stops : Bool) (h : 0 < xs.length) :
    ∃ rest, readEvents l addr xs stops = .start l :: rest ∧ ∀ e ∈ rest, ∀ l', e ≠ .start l' := by
  have hevents : readEvents l addr xs stops =
      .start l :: ([.poll .sb true, .tx (BitVec.ofNat 8 (addr.toNat * 2 + 1)), .poll .addr true] ++
        readTail xs stops) := readEvents_eq l addr xs stops
  refine ⟨_, hevents, ?_⟩
  simp only [List.forall_mem_append]
  refine ⟨by simp, fun e he l' hl => ?_⟩
  have hafter := List.all_eq_true.1 (readTail_afterOpening stops h) e he
  rw [hl] at hafter
  cases hafter

theorem stopCount_stopEvents (stops : Bool) : stopCount (stopEvents stops) = if stops then 1 else 0 := by
  cases stops <;> rfl

/-- A WRITE asserts STOP after everything else, when it does (R80). -/
theorem writeEvents_stop (l : Line) (addr : BitVec 7) (data : List Byte) (stops : Bool) :
    ∃ a, writeEvents l addr data stops = a ++ stopEvents stops ∧ stopCount a = 0 := by
  refine ⟨writeOpening l addr ++ (dataEvents data ++ [.poll .btf true]), by simp [writeEvents_eq], ?_⟩
  have hdata : stopCount (dataEvents data) = 0 := stopCount_eq_zero (dataEvents_forall rfl fun _ => rfl)
  have hopening : stopCount (writeOpening l addr) = 0 := rfl
  have hbtf : stopCount [.poll .btf true] = 0 := rfl
  rw [stopCount_append, stopCount_append, hdata, hopening, hbtf]

theorem stopCount_readEvents (l : Line) (addr : BitVec 7) {xs : List Byte} (stops : Bool) (h : 0 < xs.length) :
    stopCount (readEvents l addr xs stops) = if stops then 1 else 0 := by
  have hopening : stopCount (openingEvents l addr 1) = 0 := rfl
  rw [readEvents_eq, stopCount_append, hopening, Nat.zero_add]
  rcases readData_cases h with ⟨x, rfl⟩ | ⟨x, y, rfl⟩ | ⟨ys, x, y, z, rfl⟩
  · cases stops <;> rfl
  · cases stops <;> rfl
  · have hloop : stopCount (loopEvents ys) = 0 := stopCount_eq_zero (loopEvents_forall rfl fun _ => rfl)
    have hcontrols : stopCount [.ackOn, .clrAddr] = 0 := rfl
    have hmid : stopCount [.poll .btf true, .ackOff, .rx x] = 0 := rfl
    have hend : stopCount [.rx y, .poll .rxne true, .rx z] = 0 := rfl
    simp only [readTail_many, stopCount_append, stopCount_stopEvents, hloop, hcontrols, hmid, hend]
    simp

/-- Only a READ of two bytes writes POS (R88, R89, R90). -/
theorem readEvents_leaves_pos (l : Line) (addr : BitVec 7) {xs : List Byte} (stops : Bool) (h : 0 < xs.length)
    (htwo : xs.length ≠ 2) : ∀ e ∈ readEvents l addr xs stops, setsPos e = false := by
  have hstops : ∀ e ∈ stopEvents stops, setsPos e = false := by cases stops <;> simp [stopEvents, setsPos]
  rw [readEvents_eq]
  simp only [List.forall_mem_append]
  refine ⟨by simp [openingEvents, setsPos], ?_⟩
  rcases readData_cases h with ⟨x, rfl⟩ | ⟨x, y, rfl⟩ | ⟨ys, x, y, z, rfl⟩
  · simp only [readTail_one, List.forall_mem_append]
    exact ⟨⟨by simp [setsPos], hstops⟩, by simp [setsPos]⟩
  · exact absurd rfl htwo
  · simp only [readTail_many, List.forall_mem_append]
    exact ⟨⟨⟨⟨by simp [setsPos], loopEvents_forall rfl fun _ => rfl⟩, by simp [setsPos]⟩, hstops⟩, by simp [setsPos]⟩

end Sys2Proof.Claims

namespace Sys2Proof.Machine

open Sys2Proof.Claims

/-! The trace of a transfer. -/

/-- The events of a transfer, however it ends. -/
theorem Transferred.trace {n : List Event} {d : Dir} {stops : Bool} {s t : State} (h : Transferred n d stops s t) :
    ∃ g ok, Follows s.params.timeoutLimit n g ok ∧ t.trace = s.trace ++ g ∧ t.result = if ok then 0 else 2 := by
  cases h with
  | completed g tb hg ha hw => exact ⟨g, true, hg, rfl, rfl⟩
  | timedOut g hg ha => exact ⟨g, false, hg, rfl, rfl⟩

theorem Transferred.result {n : List Event} {d : Dir} {stops : Bool} {s t : State} (h : Transferred n d stops s t) :
    t.result = 0 ∨ t.result = 2 := by
  cases h with
  | completed g tb hg ha hw => exact .inl rfl
  | timedOut g hg ha => exact .inr rfl

/-- LINE after a transfer (R81, R83, R85). -/
theorem Transferred.line {n : List Event} {d : Dir} {stops : Bool} {s t : State} (h : Transferred n d stops s t) :
    (t.result = 0 → t.line = if stops then .released else .held) ∧ (t.result = 2 → t.line = .unknown) := by
  cases h with
  | completed g tb hg ha hw => exact ⟨fun _ => rfl, nofun⟩
  | timedOut g hg ha => exact ⟨nofun, fun _ => rfl⟩

theorem Transferred.pollCount_le {n : List Event} {d : Dir} {stops : Bool} {s t : State}
    (h : Transferred n d stops s t) {waits : Nat} (hn : pollCount n ≤ waits) :
    ∃ g, t.trace = s.trace ++ g ∧ pollCount g ≤ waits * s.params.timeoutLimit := by
  obtain ⟨g, ok, hg, htrace, -⟩ := h.trace
  exact ⟨g, htrace, hg.pollCount_le.trans (Nat.mul_le_mul_right _ hn)⟩

/-- Settles O48: a WRITE or READ by the waits among its nominal events, every other command by the events it emits. -/
theorem pollsAreBounded : Obligations.PollsAreBounded := by
  intro i s t h
  cases exec_completed h with
  | init => exact ⟨_, List.append_assoc .., by cases s.params.initEnables <;> rfl⟩
  | uninit | powerOff | powerFull => exact ⟨_, rfl, rfl⟩
  | write addr data pend t hready hrun => exact hrun.pollCount_le (pollCount_writeEvents ..).le
  | read addr xs pend t hready hrun => exact hrun.pollCount_le (pollCount_readEvents_le _ _ _ hready.2.1)
  | writeRejected | readRejected => exact ⟨[], (List.append_nil _).symm, Nat.zero_le _⟩
  | _ => exact ⟨[], (List.append_nil _).symm, rfl⟩

/-- The START of a transfer comes first and alone. -/
theorem Transferred.start {n rest : List Event} {d : Dir} {stops : Bool} {s t : State}
    (h : Transferred n d stops s t) (hn : n = .start s.line :: rest) (hrest : ∀ e ∈ rest, ∀ l, e ≠ .start l) :
    ∃ g, t.trace = s.trace ++ .start s.line :: g ∧ ∀ l, Event.start l ∉ g := by
  obtain ⟨g, ok, hg, htrace, -⟩ := h.trace
  rw [hn] at hg
  obtain ⟨g', rfl, hg'⟩ := hg.cons_of_not_poll rfl
  have hforall := hg'.forall_mem (p := fun e => ∀ l, e ≠ .start l) (fun _ _ _ => nofun) hrest
  exact ⟨g', htrace, fun l hl => hforall _ hl l rfl⟩

theorem not_beginsTransfer_of_not_isTransfer {i : Instr} (h : isTransfer i = false) (s : State) :
    ¬ beginsTransfer i s := by
  rintro ⟨addr, len, pend, -, rfl | rfl⟩ <;> cases h

theorem not_beginsTransfer_write {len : Nat} {bufv : Bool} {s : State} (addr : BitVec 7) (pend : Bool)
    (h : ¬ TransferReady len bufv s) : ¬ beginsTransfer (.write addr len pend bufv) s := by
  rintro ⟨addr', len', pend', hready, hi | hi⟩ <;> cases hi
  exact h hready

theorem not_beginsTransfer_read {len : Nat} {bufv : Bool} {s : State} (addr : BitVec 7) (pend : Bool)
    (h : ¬ TransferReady len bufv s) : ¬ beginsTransfer (.read addr len pend bufv) s := by
  rintro ⟨addr', len', pend', hready, hi | hi⟩ <;> cases hi
  exact h hready

/-- Settles O50: START is the first of a transfer's nominal events and the only one; no other command emits one. -/
theorem startRecordsLine : Obligations.StartRecordsLine := by
  intro i s t h
  have others {j : Instr} (hj : isTransfer j = false) := not_beginsTransfer_of_not_isTransfer hj s
  cases exec_completed h with
  | write addr data pend t hready hrun =>
    obtain ⟨rest, hn, hrest⟩ := writeEvents_start s.line addr data (!pend)
    obtain ⟨g, htrace, hg⟩ := hrun.start hn hrest
    exact ⟨_, htrace, fun _ => ⟨g, rfl, hg⟩, nofun⟩
  | read addr xs pend t hready hrun =>
    obtain ⟨rest, hn, hrest⟩ := readEvents_start s.line addr (assertsStop s.params pend) hready.2.1
    obtain ⟨g, htrace, hg⟩ := hrun.start hn hrest
    exact ⟨_, htrace, fun _ => ⟨g, rfl, hg⟩, nofun⟩
  | writeRejected addr len pend bufv hnot =>
    exact ⟨[], (List.append_nil _).symm, fun hb => absurd hb (not_beginsTransfer_write addr pend hnot), nofun⟩
  | readRejected addr len pend bufv hnot =>
    exact ⟨[], (List.append_nil _).symm, fun hb => absurd hb (not_beginsTransfer_read addr pend hnot), nofun⟩
  | init =>
    refine ⟨_, List.append_assoc .., fun hb => absurd hb (others rfl), fun _ l => ?_⟩
    cases s.params.initEnables <;> simp
  | uninit | powerOff | powerFull =>
    exact ⟨_, rfl, fun hb => absurd hb (others rfl), fun _ l => by simp⟩
  | _ => exact ⟨[], (List.append_nil _).symm, fun hb => absurd hb (others rfl), fun _ l => List.not_mem_nil⟩

/-- The STOPs of a transfer that ends Ok are those of its nominal events; there are no more in any case. -/
theorem Transferred.stops {n : List Event} {d : Dir} {stops : Bool} {s t : State} (h : Transferred n d stops s t) :
    (t.result = 0 → stopCount t.trace = stopCount s.trace + stopCount n) ∧
    stopCount s.trace ≤ stopCount t.trace ∧ stopCount t.trace ≤ stopCount s.trace + stopCount n := by
  obtain ⟨g, ok, hg, htrace, hresult⟩ := h.trace
  have hle : stopCount g ≤ stopCount n := by
    rw [← stopCount_successes]
    exact hg.successes_isPrefix.sublist.countP_le
  rw [htrace, stopCount_append]
  refine ⟨fun hzero => ?_, Nat.le_add_right _ _, Nat.add_le_add_left hle _⟩
  cases ok with
  | true => rw [← stopCount_successes g, hg.successes_eq]
  | false =>
    rw [hresult] at hzero
    cases hzero

/-- A transfer whose STOP, if any, comes after its last wait asserts none when it times out. -/
theorem Transferred.no_stop_of_timeout {n a : List Event} {d : Dir} {stops stops' : Bool} {s t : State}
    (h : Transferred n d stops s t) (hn : n = a ++ stopEvents stops') (ha : stopCount a = 0)
    (hresult : t.result ≠ 0) : stopCount t.trace = stopCount s.trace := by
  obtain ⟨g, ok, hg, htrace, hok⟩ := h.trace
  cases ok with
  | true => exact absurd hok hresult
  | false =>
    obtain ⟨f, rest, hsplit, -⟩ := hg.expired_split
    have hpoll : Event.poll f true ∉ stopEvents stops' := by cases stops' <;> simp [stopEvents]
    obtain ⟨r, hr⟩ := split_before_of_notMem hpoll (hn.symm.trans hsplit)
    rw [hr, stopCount_append, stopCount_successes] at ha
    rw [htrace, stopCount_append]
    omega

/-- Settles O51: STOP is the last nominal event of a WRITE, and in a READ what its nominal events hold. -/
theorem stopAssertions : Obligations.StopAssertions := by
  intro i s t h
  cases exec_completed h with
  | write addr data pend t hready hrun =>
    obtain ⟨a, hn, ha⟩ := writeEvents_stop s.line addr data (!pend)
    refine ⟨fun hzero => ?_, hrun.no_stop_of_timeout hn ha⟩
    rw [hrun.stops.1 hzero, hn, stopCount_append, ha, stopCount_stopEvents]
    cases pend <;> simp
  | read addr xs pend t hready hrun =>
    obtain ⟨hzero, hge, hle⟩ := hrun.stops
    rw [stopCount_readEvents _ _ _ hready.2.1] at hzero hle
    refine ⟨hzero, fun hnone => Nat.le_antisymm ?_ hge, hle.trans (Nat.add_le_add_left ?_ _)⟩
    · rw [hnone] at hle
      exact hle
    · split <;> decide
  | writeRejected => exact ⟨nofun, fun _ => rfl⟩
  | readRejected => exact ⟨nofun, fun _ => rfl, Nat.le_succ _⟩
  | init =>
    change stopCount (_ ++ _ ++ _) = _
    rw [stopCount_append, stopCount_append]
    cases s.params.initEnables <;> rfl
  | uninit | powerOff => exact stopCount_append s.trace [.disable]
  | powerFull => exact stopCount_append s.trace [.enable]
  | _ => rfl

/-- Ok and TimeoutError are neither ParameterError nor UnsupportedError (R102). -/
theorem not_rejected {r : Word} (h : r = 0 ∨ r = 2) : ¬ (r = 1 ∨ r = 3) := by
  rcases h with rfl | rfl <;> decide

/-- Settles O52: a transfer by its result, every other command by its whole next state. -/
theorem lineAfterCommand : Obligations.LineAfterCommand := by
  intro i s t h
  cases exec_completed h with
  | write addr data pend t hready hrun =>
    obtain ⟨hok, htimeout⟩ := hrun.line
    refine ⟨fun hr => absurd hr (not_rejected hrun.result), fun hzero => (hok hzero).trans ?_, htimeout⟩
    cases pend <;> rfl
  | read addr xs pend t hready hrun => exact ⟨fun hr => absurd hr (not_rejected hrun.result), hrun.line⟩
  | writeRejected | readRejected => exact ⟨fun _ => rfl, nofun, nofun⟩
  | init | uninit | powerOff => exact ⟨fun hr => absurd hr (not_rejected (.inl rfl)), rfl⟩
  | _ => exact ⟨fun _ => rfl, rfl⟩

/-- Settles O53: RESULT in each way a command completes. -/
theorem resultCodesByCommand : Obligations.ResultCodesByCommand := by
  intro i s t h
  cases exec_completed h with
  | write addr data pend t hready hrun => exact ⟨fun hnot => absurd hready hnot, fun _ => hrun.result⟩
  | read addr xs pend t hready hrun => exact ⟨fun hnot => absurd hready hnot, fun _ => hrun.result⟩
  | writeRejected _ _ _ _ hnot | readRejected _ _ _ _ hnot => exact ⟨fun _ => rfl, fun hready => absurd hready hnot⟩
  | controlOther option value hne => exact (if_neg hne).symm
  | _ => rfl

/-- Settles O54: a timeout by its whole next state; the other failures are one write of RESULT. -/
theorem whatFailuresLeave : Obligations.WhatFailuresLeave := by
  intro i s t h
  cases exec_completed h with
  | write addr data pend t hready hrun =>
    refine ⟨fun hr => absurd hr (not_rejected hrun.result), fun htimeout => ?_⟩
    cases hrun with
    | completed g tb hg ha hw => cases htimeout
    | timedOut g hg ha => exact ⟨g, rfl⟩
  | read addr xs pend t hready hrun =>
    refine ⟨fun hr => absurd hr (not_rejected hrun.result), fun htimeout => ?_⟩
    cases hrun with
    | completed g tb hg ha hw => cases htimeout
    | timedOut g hg ha => exact ⟨g, rfl⟩
  | init | uninit | powerOff | powerFull | controlStandard | getStatus | getVersion | getCapabilities =>
    exact ⟨fun hr => absurd hr (not_rejected (.inl rfl)), nofun⟩
  | _ => exact ⟨fun _ => rfl, nofun⟩

/-! BUF after a READ. -/

theorem read_storeBytes (m : Memory) (k : Nat) (xs : List Byte) (j : Nat) :
    Memory.read (storeBytes m k xs) j = if k ≤ j ∧ j < k + xs.length then xs[j - k]? else Memory.read m j := by
  induction xs generalizing m k with
  | nil =>
    rw [if_neg (by simp)]
    rfl
  | cons x xs ih =>
    rw [storeBytes, ih, Memory.read_write, List.length_cons]
    rcases Nat.lt_trichotomy j k with hlt | rfl | hgt
    · rw [if_neg (by omega), if_neg (by omega), if_neg (by omega)]
    · rw [if_neg (by omega), if_pos rfl, if_pos (by omega), Nat.sub_self]
      rfl
    · have hindex : j - k = (j - (k + 1)) + 1 := by omega
      have hrange : (k + 1 ≤ j ∧ j < k + 1 + xs.length) ↔ (k ≤ j ∧ j < k + (xs.length + 1)) := by omega
      rw [if_neg (Nat.ne_of_gt hgt), hindex, List.getElem?_cons_succ]
      simp only [hrange]

/-- What a READ received, and where it is (R45). -/
theorem Transferred.received {l : Line} {addr : BitVec 7} {xs : List Byte} {stops stops' : Bool} {d : Dir} {s t : State}
    (h : Transferred (readEvents l addr xs stops) d stops' s t) (hlen : 0 < xs.length) :
    ∃ g, t.trace = s.trace ++ g ∧ g.filterMap Event.received <+: xs ∧
      (t.result = 0 → g.filterMap Event.received = xs) ∧
      t.buf = storeBytes s.buf s.base (g.filterMap Event.received) := by
  have hxs := received_readEvents l addr stops hlen
  cases h with
  | completed g tb hg ha hw => exact ⟨g, rfl, hxs ▸ hg.received_isPrefix, fun _ => hg.received_eq.trans hxs, rfl⟩
  | timedOut g hg ha => exact ⟨g, rfl, hxs ▸ hg.received_isPrefix, nofun, rfl⟩

/-- Settles O44: the bytes received are the first of the nominal ones, stored from BASE on. -/
theorem readStoresBytesInOrder : Obligations.ReadStoresBytesInOrder := by
  intro addr len pend s t hready h
  cases exec_completed h with
  | readRejected _ _ _ _ hnot => exact absurd hready hnot
  | read _ xs _ _ _ hrun =>
    obtain ⟨g, htrace, hfirst, hall, hbuf⟩ := hrun.received hready.2.1
    refine ⟨g, htrace, hfirst.length_le, fun hzero => by rw [hall hzero], fun k => ?_⟩
    rw [hbuf, read_storeBytes]

end Sys2Proof.Machine
end

section
/-! Family other, whole-machine rules (10_state.md, 20_memory.md, 41_transaction_executor.md): which commands may change
each state element, and that every step keeps the invariant between host accesses. -/

namespace Sys2Proof.Machine

open Sys2Proof.Claims

/-! Which commands may change what. -/

/-- What a transfer leaves alone, whichever it is. -/
theorem Transferred.frame {n : List Event} {d : Dir} {stops : Bool} {s t : State} (h : Transferred n d stops s t) :
    SameHost s t ∧ t.seq = none ∧ t.initialized = s.initialized ∧ t.cfg = s.cfg ∧ t.enabled = s.enabled ∧
      t.rdata = s.rdata := by
  cases h with
  | completed g tb hg ha hw => exact ⟨⟨rfl, rfl, rfl, rfl⟩, rfl, rfl, rfl, rfl, rfl⟩
  | timedOut g hg ha => exact ⟨⟨rfl, rfl, rfl, rfl⟩, rfl, rfl, rfl, rfl, rfl⟩

theorem Transferred.result_lt {n : List Event} {d : Dir} {stops : Bool} {s t : State}
    (h : Transferred n d stops s t) : t.result.toNat < 4 := by
  rcases h.result with hr | hr <;> rw [hr] <;> decide

/-- A WRITE leaves BUF, ACK and POS. -/
theorem Transferred.write_frame {l : Line} {addr : BitVec 7} {data : List Byte} {d : Dir} {stops stops' : Bool}
    {s t : State} (h : Transferred (writeEvents l addr data stops) d stops' s t) :
    t.buf = s.buf ∧ t.ack = s.ack ∧ t.pos = s.pos := by
  cases h with
  | completed g tb hg ha hw => rw [afterEvents_of_write hg]; exact ⟨rfl, rfl, rfl⟩
  | timedOut g hg ha => rw [afterEvents_of_write hg]; exact ⟨rfl, rfl, rfl⟩

/-- A READ of other than two bytes leaves POS. -/
theorem Transferred.read_pos {l : Line} {addr : BitVec 7} {xs : List Byte} {d : Dir} {stops stops' : Bool}
    {s t : State} (h : Transferred (readEvents l addr xs stops) d stops' s t) (hlen : 0 < xs.length)
    (htwo : xs.length ≠ 2) : t.pos = s.pos := by
  have hleave := readEvents_leaves_pos l addr stops hlen htwo
  cases h with
  | completed g tb hg ha hw => exact posAfterEvents_of_leaves _ (hg.forall_mem (fun _ _ => rfl) hleave)
  | timedOut g hg ha => exact posAfterEvents_of_leaves _ (hg.forall_mem (fun _ _ => rfl) hleave)

/-- Settles O56: a transfer by its frame, every other command by its whole next state. -/
theorem frameByCommand : Obligations.FrameByCommand := by
  intro i s t h
  cases exec_completed h with
  | write addr data pend t hready hrun =>
    obtain ⟨⟨hbase, hparams, hhost, hdata⟩, hseq, hinit, hcfg, henabled, hrdata⟩ := hrun.frame
    obtain ⟨hbuf, hack, hpos⟩ := hrun.write_frame
    have hbegins : beginsTransfer (.write addr data.length pend true) s := ⟨addr, _, pend, hready, .inl rfl⟩
    exact ⟨hbase, hparams, hhost, hdata, hseq, fun _ => hbuf, fun _ _ => ⟨hinit, hcfg⟩, fun _ _ _ => henabled,
      fun _ _ _ => ⟨hack, hpos⟩, fun _ _ _ => hpos, nofun, nofun, fun _ _ hnot => absurd hbegins hnot,
      fun _ _ _ hnot => absurd hbegins hnot, fun _ _ _ => hrdata, fun _ _ _ _ hnot => absurd hbegins hnot, hrun.result_lt⟩
  | read addr xs pend t hready hrun =>
    obtain ⟨⟨hbase, hparams, hhost, hdata⟩, hseq, hinit, hcfg, henabled, hrdata⟩ := hrun.frame
    have hbegins : beginsTransfer (.read addr xs.length pend true) s := ⟨addr, _, pend, hready, .inr rfl⟩
    have hpos (hnot : ∀ addr' pend' bufv', Instr.read addr xs.length pend true ≠ .read addr' 2 pend' bufv') :
        t.pos = s.pos :=
      hrun.read_pos hready.2.1 fun htwo => hnot addr pend true (by rw [htwo])
    exact ⟨hbase, hparams, hhost, hdata, hseq, fun hnot => absurd rfl (hnot _ _ _ _), fun _ _ => ⟨hinit, hcfg⟩,
      fun _ _ _ => henabled, fun _ _ hnot => absurd rfl (hnot _ _ _ _), fun hnot _ _ => hpos hnot, nofun, nofun,
      fun _ _ hnot => absurd hbegins hnot, fun _ _ _ hnot => absurd hbegins hnot, fun _ _ _ => hrdata,
      fun _ _ _ _ hnot => absurd hbegins hnot, hrun.result_lt⟩
  | _ => simp [isTransfer]

/-! The invariant between host accesses. -/

theorem storeBytes_wf {m : Memory} (h : Memory.wf m) (k : Nat) (xs : List Byte) : Memory.wf (storeBytes m k xs) := by
  induction xs generalizing m k with
  | nil => exact h
  | cons x xs ih => exact ih (Memory.write_wf h k x) (k + 1)

theorem storeBytes_below {m : Memory} {size : Nat} (h : Memory.below m size) {k : Nat} {xs : List Byte}
    (hrange : k + xs.length ≤ size) : Memory.below (storeBytes m k xs) size := by
  induction xs generalizing m k with
  | nil => exact h
  | cons x xs ih =>
    rw [List.length_cons] at hrange
    exact ih (Memory.write_below h (by omega) x) (by omega)

/-- The invariant holds of a state that differs in none of what it speaks of but RESULT. -/
theorem inv_of_frame {s t : State} (h : s.Inv) (hresult : t.result.toNat < 4) (hseq : t.seq = none)
    (hparams : t.params = s.params := by rfl) (hbuf : t.buf = s.buf := by rfl)
    (hbase : t.bufbase = s.bufbase := by rfl) (hbusy : t.busy = s.busy := by rfl)
    (hphase : t.phase = s.phase := by rfl) (hline : t.line = s.line := by rfl)
    (hinit : t.initialized = s.initialized := by rfl) (hcfg : t.cfg = s.cfg := by rfl) : t.Inv where
  params := hparams ▸ h.params
  memory := hbuf ▸ h.memory
  below := hparams ▸ hbuf ▸ h.below
  base := hbase ▸ h.base
  result := hresult
  noCommand := hseq
  notBusy := hbusy.trans h.notBusy
  phase := hphase ▸ h.phase
  line hl := hphase ▸ h.line (hline ▸ hl)
  config := by rw [hcfg, hinit, hparams, h.config]

/-- A transfer whose bytes have room in BUF keeps the invariant. -/
theorem Transferred.inv {n : List Event} {d : Dir} {stops : Bool} {s t : State} (h : Transferred n d stops s t)
    (hinv : s.Inv) (hrange : s.base + (n.filterMap Event.received).length ≤ s.params.bufSize) : t.Inv := by
  have hroom {g : List Event} {ok : Bool} (hg : Follows s.params.timeoutLimit n g ok) :
      s.base + (g.filterMap Event.received).length ≤ s.params.bufSize :=
    (Nat.add_le_add_left hg.received_isPrefix.length_le _).trans hrange
  cases h with
  | completed g tb hg ha hw =>
    exact { params := hinv.params, memory := storeBytes_wf hinv.memory _ _
            below := storeBytes_below hinv.below (hroom hg), base := hinv.base
            result := (by decide : (0 : Word).toNat < 4), noCommand := rfl, notBusy := rfl, phase := .inl rfl
            line := by cases stops <;> exact nofun
            config := hinv.config }
  | timedOut g hg ha =>
    exact { params := hinv.params, memory := storeBytes_wf hinv.memory _ _
            below := storeBytes_below hinv.below (hroom hg), base := hinv.base
            result := (by decide : (2 : Word).toNat < 4), noCommand := rfl, notBusy := rfl, phase := .inr rfl
            line := fun _ => rfl
            config := hinv.config }

/-- Every command keeps the invariant. -/
theorem Completed.inv {i : Instr} {s t : State} (h : Completed s i t) (hinv : s.Inv) : t.Inv := by
  have ok : (0 : Word).toNat < 4 := by decide
  cases h with
  | init =>
    exact { params := hinv.params, memory := hinv.memory, below := hinv.below, base := hinv.base, result := ok
            noCommand := rfl, notBusy := rfl, phase := .inl rfl, line := nofun, config := rfl }
  | uninit =>
    exact { params := hinv.params, memory := hinv.memory, below := hinv.below, base := hinv.base, result := ok
            noCommand := rfl, notBusy := hinv.notBusy, phase := .inl rfl, line := nofun, config := rfl }
  | powerOff =>
    exact { params := hinv.params, memory := hinv.memory, below := hinv.below, base := hinv.base, result := ok
            noCommand := rfl, notBusy := hinv.notBusy, phase := hinv.phase, line := nofun, config := hinv.config }
  | write addr data pend t hready hrun =>
    refine hrun.inv hinv ?_
    rw [received_writeEvents]
    exact (Nat.le_add_right _ _).trans hready.2.2
  | read addr xs pend t hready hrun =>
    refine hrun.inv hinv ?_
    rw [received_readEvents _ _ _ hready.2.1]
    exact hready.2.2
  | writeRejected | readRejected => exact inv_of_frame hinv (by decide : (1 : Word).toNat < 4) rfl
  | powerFull | controlStandard | getStatus | getVersion | getCapabilities => exact inv_of_frame hinv ok rfl
  | powerLow | powerUnnamed | controlOther | slaveTx | slaveRx =>
    exact inv_of_frame hinv (by decide : (3 : Word).toNat < 4) rfl

/-- A CMD write keeps the invariant, for a reserved opcode too. -/
theorem cmdWrite_inv {w : Word} {s t : State} (hinv : s.Inv) (h : cmdWrite w s = .next t) : t.Inv := by
  cases hw : decode w with
  | command i =>
    rw [cmdWrite_command hw] at h
    exact (exec_completed h).inv (inv_of_frame hinv hinv.result rfl)
  | reservedOpcode op =>
    rw [cmdWrite_reserved hw] at h
    cases h
    exact inv_of_frame hinv (by decide : (3 : Word).toNat < 4) rfl

theorem bufbaseStored_idem (v : Word) : bufbaseStored (bufbaseStored v) = bufbaseStored v := by
  apply BitVec.eq_of_toNat_eq
  simp [bufbaseStored]

/-- Settles O16: between host accesses a step is an access; each of the five kinds keeps the invariant. -/
theorem stepKeepsInvariant : Obligations.StepKeepsInvariant := by
  intro s t hinv h
  obtain ⟨rest, hacc⟩ := step_of_noCommand hinv.noCommand h
  have hrest : ({ s with host := rest } : State).Inv := inv_of_frame hinv hinv.result hinv.noCommand
  cases hacc with
  | returned d => exact inv_of_frame hrest hrest.result hrest.noCommand
  | ignored => exact hrest
  | based v => exact { hrest with base := bufbaseStored_idem v }
  | stored k b hk =>
    exact { hrest with memory := Memory.write_wf hrest.memory k b, below := Memory.write_below hrest.below hk b }
  | command w t hw => exact cmdWrite_inv hrest hw

end Sys2Proof.Machine
end

section
/-! Family other, given environments (00_scope.md, 41_transaction_executor.md, 42_read_sequencer.md): what the
answers of the environment say of the events (D23), the transfers whose waits all succeed, at once or in time, and
those whose first wait never does. -/

namespace Sys2Proof.Claims

open Sys2Proof.Machine

/-! Answers. -/

theorem length_answers (g : List Event) : (g.filterMap pollAnswered).length = pollCount g := by
  induction g with
  | nil => rfl
  | cons e g ih =>
    cases e with
    | poll f v => rw [pollCount_poll_cons, ← ih]; rfl
    | _ => exact ih

/-- The answers to the events of a list, and to those after it. -/
theorem AnsweredBy.of_append {e : Env} {g k : List Event} (h : AnsweredBy e (g ++ k)) :
    AnsweredBy e g ∧ AnsweredBy (e.afterPolls (pollCount g)) k := by
  have hshift : (e.afterPolls (pollCount g)).pollAt = fun i => e.pollAt (pollCount g + i) := by
    funext i
    exact Env.pollAt_afterPolls e _ i
  rw [AnsweredBy, List.filterMap_append, pollCount_append, List.range_add, List.map_append, List.map_map] at h
  obtain ⟨hg, hk⟩ := List.append_inj h (by rw [length_answers, List.length_map, List.length_range])
  exact ⟨hg, by rw [AnsweredBy, hshift]; exact hk⟩

theorem AnsweredBy.of_cons_of_not_poll {e : Env} {ev : Event} {g : List Event} (hpoll : ev.isPoll = false)
    (h : AnsweredBy e (ev :: g)) : AnsweredBy e g := by
  obtain ⟨-, hg⟩ := AnsweredBy.of_append (g := [ev]) h
  rwa [pollCount_cons_of_not_poll hpoll, pollCount_nil, Env.afterPolls_zero] at hg

/-- Polls that answered false were answered false. -/
theorem AnsweredBy.silent {e : Env} {f : StatusFlag} {n : Nat} (h : AnsweredBy e (List.replicate n (.poll f false)))
    {i : Nat} (hi : i < n) : e.pollAt i = false := by
  rw [AnsweredBy, pollCount_replicate, List.filterMap_replicate] at h
  have hat := congrArg (fun l => l[i]?) h
  simpa [pollAnswered, hi] using hat.symm

theorem AnsweredBy.head {e : Env} {f : StatusFlag} {v : Bool} {g : List Event} (h : AnsweredBy e (.poll f v :: g)) :
    e.pollAt 0 = v := by
  rw [AnsweredBy, pollCount_poll_cons, List.range_succ_eq_map] at h
  exact (List.cons.inj h).1.symm

/-- Under an environment that answers true within `k` polls wherever a wait begins, every wait succeeds, in at most `k`
polls (D23). -/
theorem Follows.responsive {limit k : Nat} {n g : List Event} {ok : Bool} (h : Follows limit n g ok)
    (hk : 1 ≤ k) (hlimit : k ≤ limit) {bound : Nat} (hbound : k * pollCount n ≤ bound) {e : Env}
    (ha : AnsweredBy e g) (hresp : ∀ p, p < bound → ∃ j, j < k ∧ e.pollAt (p + j) = true) :
    ok = true ∧ pollCount g ≤ k * pollCount n := by
  induction h generalizing bound e with
  | done => exact ⟨rfl, Nat.zero_le _⟩
  | act ev n g ok hpoll _ ih =>
    rw [pollCount_cons_of_not_poll hpoll] at hbound ⊢
    rw [pollCount_cons_of_not_poll hpoll]
    exact ih hbound (ha.of_cons_of_not_poll hpoll) hresp
  | waited f j n g ok hj _ ih =>
    rw [pollCount_poll_cons, Nat.mul_add, Nat.mul_one] at hbound ⊢
    obtain ⟨hfail, hrest⟩ := ha.of_append
    rw [pollCount_replicate] at hrest
    obtain ⟨-, hafter⟩ := AnsweredBy.of_append (g := [.poll f true]) hrest
    rw [pollCount_poll_cons, pollCount_nil, Env.afterPolls_afterPolls] at hafter
    have hjk : j < k := by
      obtain ⟨i, hik, htrue⟩ := hresp 0 (by omega)
      by_contra hle
      rw [Nat.zero_add, hfail.silent (by omega)] at htrue
      cases htrue
    obtain ⟨hok, hcount⟩ := ih (bound := bound - (j + 1)) (by omega) hafter fun p hp => by
      obtain ⟨i, hik, htrue⟩ := hresp (j + 1 + p) (by omega)
      exact ⟨i, hik, by rw [Env.pollAt_afterPolls, ← Nat.add_assoc]; exact htrue⟩
    refine ⟨hok, ?_⟩
    rw [pollCount_append, pollCount_replicate, pollCount_poll_cons]
    omega
  | expired f n =>
    rw [pollCount_poll_cons, Nat.mul_add, Nat.mul_one] at hbound
    obtain ⟨i, hik, htrue⟩ := hresp 0 (by omega)
    rw [Nat.zero_add, ha.silent (by omega)] at htrue
    cases htrue

/-- With one poll a wait the events are the nominal ones. -/
theorem Follows.eq_nominal {limit : Nat} {n g : List Event} (h : Follows limit n g true)
    (hcount : pollCount g ≤ pollCount n) : g = n ∧ ∀ e ∈ g, e.isFailedPoll = false := by
  have hsplit : pollCount g = pollCount (successes g) +
      pollCount (g.filter fun e => !!e.isFailedPoll) :=
    List.countP_eq_countP_filter_add g Event.isPoll (fun e => !e.isFailedPoll)
  rw [h.successes_eq] at hsplit
  have hzero : pollCount (g.filter fun e => !!e.isFailedPoll) = 0 := by omega
  have hfailed : ∀ e ∈ g, e.isFailedPoll = false := by
    intro e he
    by_contra hfail
    rw [Bool.not_eq_false] at hfail
    refine List.countP_eq_zero.1 hzero e (List.mem_filter.2 ⟨he, by simp [hfail]⟩) ?_
    cases e with
    | poll f v => rfl
    | _ => cases hfail
  refine ⟨?_, hfailed⟩
  rw [← h.successes_eq, successes, List.filter_eq_self.2 fun e he => by rw [hfailed e he]; rfl]

/-- A wait that is answered false as often as the watchdog allows expires. -/
theorem Follows.of_silent {limit : Nat} {f : StatusFlag} {n g : List Event} {ok : Bool}
    (h : Follows limit (.poll f true :: n) g ok) {e : Env} (ha : AnsweredBy e g)
    (hsilent : ∀ i, i < limit → e.pollAt i = false) : ok = false ∧ g = List.replicate limit (.poll f false) := by
  cases h with
  | act _ _ _ _ hpoll _ => cases hpoll
  | waited _ j _ g _ hj _ =>
    obtain ⟨-, hrest⟩ := ha.of_append
    have htrue := hrest.head
    rw [pollCount_replicate, Env.pollAt_afterPolls, Nat.add_zero, hsilent j hj] at htrue
    cases htrue
  | expired _ _ => exact ⟨rfl, rfl⟩

theorem ackAfterEvents_readEvents (a : Bool) (l : Line) (addr : BitVec 7) {xs : List Byte} (stops : Bool)
    (h : 0 < xs.length) : ackAfterEvents a (readEvents l addr xs stops) = false := by
  rcases readData_cases h with ⟨x, rfl⟩ | ⟨x, y, rfl⟩ | ⟨ys, x, y, z, rfl⟩
  · cases stops <;> rfl
  · cases stops <;> rfl
  · rw [readEvents_eq, readTail_many]
    simp only [ackAfterEvents_append]
    cases stops <;> rfl

end Sys2Proof.Claims

namespace Sys2Proof.Machine

open Sys2Proof.Claims

/-! Transfers whose waits succeed. -/

/-- When every wait is answered at once, a transfer's events are its nominal ones, and TB is as the last wait loaded
it. -/
theorem Transferred.immediate {n : List Event} {d : Dir} {stops : Bool} {s t : State} (h : Transferred n d stops s t)
    {polls : Nat} (hn : pollCount n = polls) (hpos : 0 < polls) (hlimit : 1 ≤ s.params.timeoutLimit)
    (henv : EnvImmediate polls s) :
    t = { s.afterEvents s.base n with
      dir := d, busy := false, phase := .idle, line := if stops then .released else .held
      tb := s.params.timeoutLimit, result := 0, seq := none } := by
  have hresp : ∀ p, p < polls → ∃ j, j < 1 ∧ s.env.pollAt (p + j) = true := fun p hp => ⟨0, Nat.one_pos, henv p hp⟩
  have hbound : 1 * pollCount n ≤ polls := by omega
  cases h with
  | timedOut g hg ha => cases (hg.responsive le_rfl hlimit hbound ha hresp).1
  | completed g tb hg ha hw =>
    obtain ⟨-, hcount⟩ := hg.responsive le_rfl hlimit hbound ha hresp
    obtain ⟨rfl, hfailed⟩ := hg.eq_nominal (by omega)
    rw [hw hfailed, if_neg (show pollCount g ≠ 0 by omega)]

/-- Settles O37: the waits of a WRITE are all answered at once. -/
theorem writeImmediate : Obligations.WriteImmediate := by
  intro addr data pend s hready hbuf hlimit henv
  obtain ⟨t, ht, hrun⟩ := exec_write_transferred addr pend hready hbuf
  have hcount := pollCount_writeEvents s.line addr data (!pend)
  rw [ht, hrun.immediate hcount (Nat.succ_pos _) hlimit henv, afterEvents_of_leaves (writeEvents_leave _ _ _ _),
    hcount]
  cases pend <;> rfl

/-- The state after the nominal events of a READ. -/
theorem afterEvents_readEvents (k : Nat) (l : Line) (addr : BitVec 7) {xs : List Byte} (stops : Bool) (s : State)
    (h : 0 < xs.length) :
    s.afterEvents k (readEvents l addr xs stops) = { s with
      trace := s.trace ++ readEvents l addr xs stops
      buf := storeBytes s.buf k xs
      ack := false
      pos := posAfterEvents s.pos (readEvents l addr xs stops)
      env := (s.env.afterPolls (pollCount (readEvents l addr xs stops))).afterRxs xs.length } := by
  rw [State.afterEvents, received_readEvents l addr stops h, ackAfterEvents_readEvents s.ack l addr stops h]

/-- A READ whose waits are all answered at once, by how many they are and by the POS it leaves. -/
theorem exec_read_immediate {addr : BitVec 7} {xs : List Byte} {pend pos : Bool} {polls : Nat} {s : State}
    (hready : TransferReady xs.length true s) (hdata : EnvData xs s) (hlimit : 1 ≤ s.params.timeoutLimit)
    (hcount : pollCount (readEvents s.line addr xs (assertsStop s.params pend)) = polls) (hpolls : 0 < polls)
    (henv : EnvImmediate polls s)
    (hpos : posAfterEvents s.pos (readEvents s.line addr xs (assertsStop s.params pend)) = pos) :
    exec (.read addr xs.length pend true) s = .next { s with
      trace := s.trace ++ readEvents s.line addr xs (assertsStop s.params pend)
      buf := storeBytes s.buf s.base xs
      dir := .read, busy := false, ack := false, pos := pos, phase := .idle
      line := if assertsStop s.params pend then .released else .held
      tb := s.params.timeoutLimit, env := (s.env.afterPolls polls).afterRxs xs.length, result := 0, seq := none } := by
  obtain ⟨t, ht, hrun⟩ := exec_read_transferred addr pend hready hdata
  rw [ht, hrun.immediate hcount hpolls hlimit henv, afterEvents_readEvents _ _ _ _ _ hready.2.1, hcount, hpos]

/-- Settles O40: three waits, and POS left as it was. -/
theorem readOneImmediate : Obligations.ReadOneImmediate := fun addr _ x s hready hlimit henv hdata =>
  exec_read_immediate (xs := [x]) hready hdata hlimit (pollCount_readEvents_one _ _ _ _) (by decide) henv
    (posAfterEvents_of_leaves s.pos (readEvents_leaves_pos s.line addr (xs := [x]) _ Nat.one_pos (by simp)))

/-- Settles O41: three waits, and POS cleared by the last event. -/
theorem readTwoImmediate : Obligations.ReadTwoImmediate := by
  intro addr pend x y s hready hlimit henv hdata
  refine exec_read_immediate (xs := [x, y]) hready hdata hlimit (pollCount_readEvents_two _ _ _ _ _) (by decide) henv ?_
  cases assertsStop s.params pend <;> rfl

/-- Settles O42: LEN + 1 waits, and POS left as it was. -/
theorem readManyImmediate : Obligations.ReadManyImmediate := by
  intro addr pend xs s hlen hready hlimit henv hdata
  have hcount : pollCount (readEvents s.line addr xs (assertsStop s.params pend)) = xs.length + 1 := by
    obtain ⟨ys, x, y, z, rfl⟩ := exists_eq_append_three hlen
    rw [pollCount_readEvents_many, List.length_append]
    rfl
  exact exec_read_immediate hready hdata hlimit hcount (Nat.succ_pos _) henv
    (posAfterEvents_of_leaves s.pos (readEvents_leaves_pos s.line addr _ hready.2.1 (by omega)))

/-- A transfer with a responsive environment ends Ok (D23). -/
theorem Transferred.responsive {n : List Event} {d : Dir} {stops : Bool} {s t : State}
    (h : Transferred n d stops s t) {k waits : Nat} (hk : 1 ≤ k) (hlimit : k ≤ s.params.timeoutLimit)
    (hn : pollCount n ≤ waits) (henv : EnvResponsive k waits s) : t.result = 0 := by
  cases h with
  | completed g tb hg ha hw => rfl
  | timedOut g hg ha => cases (hg.responsive hk hlimit (Nat.mul_le_mul_left k hn) ha henv).1

/-- Settles O49: a WRITE or READ makes at most LEN + 3 waits. -/
theorem responsiveTransfersEndOk : Obligations.ResponsiveTransfersEndOk := by
  intro addr len k pend s hready hk hlimit henv
  refine ⟨fun hdef => ?write, ?read⟩
  case write =>
    obtain ⟨data, rfl, hbuf⟩ := exists_bufHolds ((Memory.definedFrom_iff _ _ _).1 hdef)
    obtain ⟨t, ht, hrun⟩ := exec_write_transferred addr pend hready hbuf
    exact ⟨t, ht, hrun.responsive hk hlimit (pollCount_writeEvents ..).le henv⟩
  case read =>
    have hlen := length_nextBytes s.env len
    rw [← hlen] at hready henv ⊢
    obtain ⟨t, ht, hrun⟩ := exec_read_transferred addr pend hready (envData_nextBytes len s)
    exact ⟨t, ht, hrun.responsive hk hlimit (pollCount_readEvents_le _ _ _ hready.2.1) henv⟩

/-! A transfer whose START is never acknowledged. -/

/-- With the watchdog's polls all answered false, the wait for SB is the transfer's last (R83). -/
theorem Transferred.silent {n rest : List Event} {d : Dir} {stops : Bool} {s t : State}
    (h : Transferred n d stops s t) (hn : n = .start s.line :: .poll .sb true :: rest)
    (henv : EnvSilent s.params.timeoutLimit s) :
    t = { s with
      trace := s.trace ++ .start s.line :: List.replicate s.params.timeoutLimit (.poll .sb false)
      dir := d, busy := false, phase := .timedOut, line := .unknown, tb := 0
      env := s.env.afterPolls s.params.timeoutLimit, result := 2, seq := none } := by
  have hevents {g : List Event} {ok : Bool} (hg : Follows s.params.timeoutLimit n g ok) (ha : AnsweredBy s.env g) :
      ok = false ∧ g = .start s.line :: List.replicate s.params.timeoutLimit (.poll .sb false) := by
    rw [hn] at hg
    obtain ⟨g', rfl, hg'⟩ := hg.cons_of_not_poll rfl
    obtain ⟨hok, rfl⟩ := hg'.of_silent (ha.of_cons_of_not_poll rfl) henv
    exact ⟨hok, rfl⟩
  cases h with
  | completed g tb hg ha hw => cases (hevents hg ha).1
  | timedOut g hg ha =>
    obtain ⟨-, rfl⟩ := hevents hg ha
    rw [afterEvents_of_leaves, pollCount_cons_of_not_poll rfl, pollCount_replicate]
    refine List.forall_mem_cons.2 ⟨⟨rfl, rfl, rfl⟩, fun e he => ?_⟩
    rw [List.eq_of_mem_replicate he]
    exact ⟨rfl, rfl, rfl⟩

/-- Settles O47: either transfer begins with START and the wait for SB. -/
theorem startNeverAcknowledged : Obligations.StartNeverAcknowledged := by
  intro addr data pend s hready henv
  refine ⟨fun hbuf => ?write, ?read⟩
  case write =>
    obtain ⟨t, ht, hrun⟩ := exec_write_transferred addr pend hready hbuf
    rw [ht, hrun.silent (writeEvents_eq ..) henv]
  case read =>
    have hlen := length_nextBytes s.env data.length
    rw [← hlen] at hready ⊢
    obtain ⟨t, ht, hrun⟩ := exec_read_transferred addr pend hready (envData_nextBytes _ s)
    rw [ht, hrun.silent (readEvents_eq ..) henv]

end Sys2Proof.Machine
end

section
/-! Family other, what a READ that times out leaves in ACK and POS (R123): the wait that expired splits its nominal
events, and the events before it say which of the acknowledge controls of R87 and R90 have been set. -/

namespace Sys2Proof.Claims

open Sys2Proof.Machine

/-- R123 of a READ of `len` bytes whose wait for `f` has expired after the successes `m`, begun with ACK and POS at `a`
and `p`. -/
structure Residue (len : Nat) (a p : Bool) (f : StatusFlag) (m : List Event) : Prop where
  opening : f = .sb ∨ f = .addr → ackAfterEvents a m = a ∧ posAfterEvents p m = p
  one : len = 1 → f = .rxne → ackAfterEvents a m = false ∧ posAfterEvents p m = p
  two : len = 2 → f = .btf → ackAfterEvents a m = false ∧ posAfterEvents p m = true
  loop : 3 ≤ len → f = .btf → ackAfterEvents a m = true ∧ posAfterEvents p m = p
  acked : 3 ≤ len → .ackOff ∉ m → .ackOn ∈ m → ackAfterEvents a m = true ∧ posAfterEvents p m = p
  nacked : 3 ≤ len → .ackOff ∈ m → ackAfterEvents a m = false ∧ posAfterEvents p m = p
  keepsPos : p = true → posAfterEvents p m = true

/-- A wait of a READ is one of the two in its opening, after events that leave ACK and POS, or comes later and is for
neither SB nor ADDR. -/
theorem readEvents_split {l : Line} {addr : BitVec 7} {xs : List Byte} {stops : Bool} {f : StatusFlag}
    {m rest : List Event} (hlen : 0 < xs.length)
    (h : readEvents l addr xs stops = m ++ .poll f true :: rest) :
    ((f = .sb ∨ f = .addr) ∧ ∀ e ∈ m, setsAck e = false ∧ setsPos e = false) ∨
    ∃ m', m = openingEvents l addr 1 ++ m' ∧ readTail xs stops = m' ++ .poll f true :: rest ∧ f ≠ .sb ∧ f ≠ .addr := by
  rw [readEvents_eq] at h
  by_cases hp : .poll f true ∈ openingEvents l addr 1
  · have hf : f = .sb ∨ f = .addr := by simpa [openingEvents] using hp
    have hlate : .poll f true ∉ readTail xs stops := fun hmem => by
      have hafter := List.all_eq_true.1 (readTail_afterOpening stops hlen) _ hmem
      rcases hf with rfl | rfl <;> cases hafter
    obtain ⟨r, hopening⟩ := split_before_of_notMem hlate h
    have hleaves : ∀ e ∈ openingEvents l addr 1, setsAck e = false ∧ setsPos e = false := by
      simp [openingEvents, setsAck, setsPos]
    exact .inl ⟨hf, fun e he => hleaves e (hopening ▸ List.mem_append_left _ he)⟩
  · obtain ⟨m', hm, htail⟩ := split_after_of_notMem hp h
    exact .inr ⟨m', hm, htail, by rintro rfl; simp [openingEvents] at hp, by rintro rfl; simp [openingEvents] at hp⟩

/-- A wait of the opening (R78, R79). -/
theorem residue_opening (len : Nat) (a p : Bool) {f : StatusFlag} {m : List Event} (hf : f = .sb ∨ f = .addr)
    (hm : ∀ e ∈ m, setsAck e = false ∧ setsPos e = false) : Residue len a p f m := by
  have hack := ackAfterEvents_of_leaves a fun e he => (hm e he).1
  have hpos := posAfterEvents_of_leaves p fun e he => (hm e he).2
  have hnot {e : Event} (he : setsAck e = true) : e ∉ m := fun hmem => by
    rw [(hm e hmem).1] at he
    cases he
  exact
    { opening := fun _ => ⟨hack, hpos⟩
      one := fun _ h => by rcases hf with rfl | rfl <;> cases h
      two := fun _ h => by rcases hf with rfl | rfl <;> cases h
      loop := fun _ h => by rcases hf with rfl | rfl <;> cases h
      acked := fun _ _ h => absurd h (hnot rfl)
      nacked := fun _ h => absurd h (hnot rfl)
      keepsPos := hpos.trans }

/-- The only wait of a one-byte READ after its opening: RXNE, after ACK_OFF (R88). -/
theorem readTail_one_split {x : Byte} {stops : Bool} {f : StatusFlag} {m rest : List Event}
    (h : readTail [x] stops = m ++ .poll f true :: rest) (a p : Bool) :
    ackAfterEvents a m = false ∧ posAfterEvents p m = p := by
  rw [readTail_one, List.append_assoc] at h
  obtain ⟨m', rfl, h'⟩ := split_after_of_notMem (a := [Event.ackOff, .clrAddr]) (by simp) h
  have hleaves : ∀ e ∈ stopEvents stops ++ [.poll .rxne true, .rx x], setsAck e = false ∧ setsPos e = false := by
    cases stops <;> simp [stopEvents, setsAck, setsPos]
  have hm' e (he : e ∈ m') := hleaves e (h' ▸ List.mem_append_left _ he)
  exact ⟨ackAfterEvents_of_leaves (g := m') false fun e he => (hm' e he).1,
    posAfterEvents_of_leaves (g := m') p fun e he => (hm' e he).2⟩

/-- The only wait of a two-byte READ after its opening: BTF, after POS_ON_ACK_OFF (R89). -/
theorem readTail_two_split {x y : Byte} {stops : Bool} {f : StatusFlag} {m rest : List Event}
    (h : readTail [x, y] stops = m ++ .poll f true :: rest) : m = [.posOnAckOff, .clrAddr] := by
  have hend : .poll f true ∉ stopEvents stops ++ [.rx x, .rx y, .posOff] := by cases stops <;> simp [stopEvents]
  rw [readTail_two, List.append_assoc] at h
  obtain ⟨r, hfirst⟩ := split_before_of_notMem hend h
  obtain ⟨m', rfl, hlast⟩ := split_after_of_notMem (a := [Event.posOnAckOff, .clrAddr]) (by simp) hfirst
  cases m' with
  | nil => rfl
  | cons e m' => simpa using (List.cons.inj hlast).2

/-- The nominal events of a READ of three or more after its ACK_OFF (R90). -/
def lastThreeEvents (x y z : Byte) (stops : Bool) : List Event :=
  .rx x :: (stopEvents stops ++ [.rx y, .poll .rxne true, .rx z])

theorem lastThreeEvents_forall (x y z : Byte) (stops : Bool) :
    ∀ e ∈ lastThreeEvents x y z stops, setsAck e = false ∧ e ≠ .poll .btf true := by
  cases stops <;> simp [lastThreeEvents, stopEvents, setsAck]

theorem readTail_many_eq (ys : List Byte) (x y z : Byte) (stops : Bool) :
    readTail (ys ++ [x, y, z]) stops = [.ackOn, .clrAddr] ++ ((loopEvents ys ++ [.poll .btf true]) ++
      ([.ackOff] ++ lastThreeEvents x y z stops)) := by
  simp [readTail_many, lastThreeEvents]

/-- A wait of a READ of three or more after its opening: in the loop or for BTF, with ACK_ON the only acknowledge
control set so far, or for the last RXNE, with ACK_OFF the last one set (R90). -/
theorem readTail_many_split {ys : List Byte} {x y z : Byte} {stops : Bool} {f : StatusFlag} {m rest : List Event}
    (h : readTail (ys ++ [x, y, z]) stops = m ++ .poll f true :: rest) (a : Bool) :
    (.ackOff ∉ m ∧ ackAfterEvents a m = true) ∨ (.ackOff ∈ m ∧ f ≠ .btf ∧ ackAfterEvents a m = false) := by
  have hend := lastThreeEvents_forall x y z stops
  have hloop : ∀ e ∈ loopEvents ys ++ [.poll .btf true], setsAck e = false := by
    simp only [List.forall_mem_append]
    exact ⟨loopEvents_forall rfl fun _ => rfl, by simp [setsAck]⟩
  rw [readTail_many_eq] at h
  obtain ⟨m', rfl, h'⟩ := split_after_of_notMem (by simp) h
  rcases List.append_eq_append_iff.1 h' with ⟨c, rfl, hc⟩ | ⟨c, hm', -⟩
  · obtain ⟨c', rfl, hc'⟩ := split_after_of_notMem (by simp) hc
    refine .inr ⟨by simp, fun hf => ?_, ?_⟩
    · exact (hend (.poll f true) (by rw [hc']; simp)).2 (by rw [hf])
    · have hlast : ackAfterEvents false c' = false :=
        ackAfterEvents_of_leaves false fun e he => (hend e (hc' ▸ List.mem_append_left _ he)).1
      rw [ackAfterEvents_append, ackAfterEvents_append]
      exact hlast
  · have hleaves e (he : e ∈ m') : setsAck e = false := hloop e (hm' ▸ List.mem_append_left _ he)
    refine .inl ⟨fun hmem => ?_, ackAfterEvents_of_leaves (g := m') true hleaves⟩
    have hin : .ackOff ∈ m' := by simpa using hmem
    cases hleaves _ hin

/-- R123 of the nominal events of a READ. -/
theorem residue_readEvents {l : Line} {addr : BitVec 7} {xs : List Byte} {stops : Bool} {f : StatusFlag}
    {m rest : List Event} (hlen : 0 < xs.length) (h : readEvents l addr xs stops = m ++ .poll f true :: rest)
    (a p : Bool) : Residue xs.length a p f m := by
  rcases readEvents_split hlen h with ⟨hf, hm⟩ | ⟨m', rfl, htail, hsb, haddr⟩
  · exact residue_opening _ a p hf hm
  have hopening : f = .sb ∨ f = .addr → ackAfterEvents a (openingEvents l addr 1 ++ m') = a ∧
      posAfterEvents p (openingEvents l addr 1 ++ m') = p := fun hf => absurd hf (not_or.2 ⟨hsb, haddr⟩)
  rcases readData_cases hlen with ⟨x, rfl⟩ | ⟨x, y, rfl⟩ | ⟨ys, x, y, z, rfl⟩
  · have hone := readTail_one_split htail a p
    exact ⟨hopening, fun _ _ => hone, nofun, nofun, nofun, nofun, hone.2.trans⟩
  · obtain rfl := readTail_two_split htail
    exact ⟨hopening, nofun, fun _ _ => ⟨rfl, rfl⟩, nofun, nofun, nofun, fun _ => rfl⟩
  · have hlength : 3 ≤ (ys ++ [x, y, z]).length := by simp
    have hpos : posAfterEvents p (openingEvents l addr 1 ++ m') = p := posAfterEvents_of_leaves p fun e he =>
      readEvents_leaves_pos l addr stops hlen (Nat.ne_of_gt hlength) e (h ▸ List.mem_append_left _ he)
    have hmem : Event.ackOff ∈ openingEvents l addr 1 ++ m' ↔ Event.ackOff ∈ m' := by simp [openingEvents]
    rcases readTail_many_split htail a with ⟨hoff, hack⟩ | ⟨hoff, hbtf, hack⟩
    · exact ⟨hopening, fun h1 => by omega, fun h2 => by omega, fun _ _ => ⟨hack, hpos⟩, fun _ _ _ => ⟨hack, hpos⟩,
        fun _ h' => absurd (hmem.1 h') hoff, hpos.trans⟩
    · exact ⟨hopening, fun h1 => by omega, fun h2 => by omega, fun _ hf => absurd hf hbtf,
        fun _ h' => absurd (hmem.2 hoff) h', fun _ _ => ⟨hack, hpos⟩, hpos.trans⟩

theorem Residue.of_successes {len : Nat} {a p : Bool} {f : StatusFlag} {g : List Event}
    (h : Residue len a p f (successes g)) : Residue len a p f g := by
  have hmem {e : Event} (he : e.isFailedPoll = false) : e ∈ successes g ↔ e ∈ g := by
    simp [successes, List.mem_filter, he]
  obtain ⟨hopening, hone, htwo, hloop, hacked, hnacked, hkeeps⟩ := h
  rw [hmem rfl] at hnacked
  rw [hmem rfl, hmem rfl] at hacked
  rw [ackAfterEvents_successes, posAfterEvents_successes] at *
  exact ⟨hopening, hone, htwo, hloop, hacked, hnacked, hkeeps⟩

end Sys2Proof.Claims

namespace Sys2Proof.Machine

open Sys2Proof.Claims

/-- Settles O46: the successes before the wait that expired say which acknowledge controls were set. -/
theorem timeoutResidue : Obligations.TimeoutResidue := by
  intro addr len pend s t hready hlimit h htimeout
  cases exec_completed h with
  | readRejected _ _ _ _ hnot => exact absurd hready hnot
  | read _ xs _ _ _ hrun =>
    cases hrun with
    | completed g tb hg ha hw => cases htimeout
    | timedOut g hg ha =>
      obtain ⟨f, rest, hsplit, hlast⟩ := hg.expired_split
      rw [if_neg (Nat.ne_of_gt hlimit)] at hlast
      have hwait {f'} (h' : lastPolled g = some f') : f = f' := Option.some.inj (hlast.symm.trans h')
      have hres := (residue_readEvents hready.2.1 hsplit s.ack s.pos).of_successes
      exact ⟨g, rfl, fun hf => hres.opening (hf.imp hwait hwait), fun h1 hf => hres.one h1 (hwait hf),
        fun h2 hf => hres.two h2 (hwait hf), fun h3 hf => hres.loop h3 (hwait hf), hres.acked, hres.nacked,
        hres.keepsPos⟩

end Sys2Proof.Machine
end

section
/-! Family other, inside a WRITE or READ (R13, R23, R33, R35, R54): each operation of a transfer, where it stands in
the list, fits what has happened of PHASE, BUSY and IDX before it; a controller step keeps the operations that remain
fitting, and what a fitting operation changes is what the statements say. -/

namespace Sys2Proof.Machine

open Sys2Proof.Claims

/-! Operations that fit. -/

/-- PHASE, BUSY and IDX at an operation of a command. -/
structure OpPoint where
  phase : Phase
  busy : Bool
  idx : Nat

/-- `s`, with `idx` the IDX of its command, as an operation meets it. -/
def State.opPoint (s : State) (idx : Nat) : OpPoint := ⟨s.phase, s.busy, idx⟩

/-- The point after an operation that goes on. -/
def CtrlOp.next (op : CtrlOp) (c : OpPoint) : OpPoint :=
  match op with
  | .emit e => { c with phase := e.phaseAfter c.phase }
  | .start => { c with phase := .startPending }
  | .txBuf _ => { c with idx := c.idx + 1 }
  | .rxBuf _ => { c with idx := c.idx + 1 }
  | .setPhase p => { c with phase := p }
  | .setBusy b => { c with busy := b }
  | _ => c

/-- A phase in which a transfer waits: one that R33 lets a timeout leave. -/
def Phase.Waiting (p : Phase) : Prop := p = .startPending ∨ p = .addressPending ∨ p = .transferring ∨ p = .stopping

/-- May the operation stand at the point, in a transfer of `len` bytes: events, polls and data reads with BUSY 1, data
bytes only up to LEN, PHASE along R33, no write of POS but by an event? When `rested`, the transfer began between
host accesses, in a phase from which it may start. -/
def CtrlOp.Fits (rested : Prop) (len : Nat) (op : CtrlOp) (c : OpPoint) : Prop :=
  match op with
  | .emit e => c.busy = true ∧ ∀ p, e.phaseAfter p = p
  | .start => c.busy = true ∧ (rested → c.phase = .idle ∨ c.phase = .timedOut)
  | .txBuf _ => c.busy = true ∧ c.idx < len
  | .rxBuf _ => c.busy = true ∧ c.idx < len
  | .wait _ => c.busy = true ∧ c.phase.Waiting
  | .polling _ => c.busy = true ∧ c.phase.Waiting
  | .setPhase p => PhaseEdge c.phase p ∧ p ≠ .startPending
  | .setPos _ => False
  | _ => True

/-- Each operation fits where it stands, the first one at `c`, and all of them lead to `d`. -/
def Leads (rested : Prop) (len : Nat) (ops : List CtrlOp) (c d : OpPoint) : Prop :=
  match ops with
  | [] => c = d
  | op :: rest => op.Fits rested len c ∧ Leads rested len rest (op.next c) d

section

variable {rested : Prop} {len : Nat}

theorem Leads.append {xs ys : List CtrlOp} {b c d : OpPoint} (hxs : Leads rested len xs b c)
    (hys : Leads rested len ys c d) : Leads rested len (xs ++ ys) b d := by
  induction xs generalizing b with
  | nil =>
    cases hxs
    exact hys
  | cons op xs ih => exact ⟨hxs.1, ih hxs.2⟩

theorem CtrlOp.Fits.idx_le {op : CtrlOp} {c : OpPoint} (h : op.Fits rested len c) (hc : c.idx ≤ len) :
    (op.next c).idx ≤ len := by
  cases op with
  | txBuf k => exact h.2
  | rxBuf k => exact h.2
  | _ => exact hc

/-! What a fitting operation changes. -/

/-- What the statements say of one controller step of a transfer (R33, R35, R54). -/
structure TransferMoved (rested : Prop) (s t : State) : Prop where
  busy : t.trace ≠ s.trace → s.busy = true
  pos : s.pos = false → t.pos = true → t.ack = false
  phase : rested → t.phase = s.phase ∨
    (PhaseEdge s.phase t.phase ∧ (t.phase = .startPending → t.trace = s.trace ++ [.start s.line]))

/-- A change that leaves PHASE, POS and TRACE. -/
theorem transferMoved_of_same {s t : State} (htrace : t.trace = s.trace) (hpos : t.pos = s.pos)
    (hphase : t.phase = s.phase) : TransferMoved rested s t where
  busy h := absurd htrace h
  pos h h' := by rw [hpos, h] at h'; cases h'
  phase _ := .inl hphase

/-- POS becomes 1 with ACK 0 only. -/
theorem Event.ackAfter_of_posAfter {e : Event} {ack : Bool} (h : e.posAfter false = true) : e.ackAfter ack = false := by
  cases e with
  | posOnAckOff => rfl
  | posOff | periphReset => cases h
  | _ => cases h

/-- An event that leaves PHASE. -/
theorem transferMoved_emit {e : Event} {s t : State} (hbusy : s.busy = true) (he : ∀ p, e.phaseAfter p = p)
    (hpos : t.pos = e.posAfter s.pos) (hack : t.ack = e.ackAfter s.ack) (hphase : t.phase = e.phaseAfter s.phase) :
    TransferMoved rested s t where
  busy _ := hbusy
  pos h h' := by
    rw [hpos, h] at h'
    rw [hack]
    exact Event.ackAfter_of_posAfter h'
  phase _ := .inl (hphase.trans (he _))

theorem phaseEdge_startPending {p : Phase} (h : p = .idle ∨ p = .timedOut) : PhaseEdge p .startPending := by
  rcases h with rfl | rfl
  · exact .startIdle
  · exact .startAfterTimeout

/-- What an operation that the controller does at once makes of the state. -/
theorem doOp_go_transferMoved {op : CtrlOp} {s t : State} {i : Nat} (hop : op.waits = false) (h : doOp op s = .go t)
    (hfit : op.Fits rested len (s.opPoint i)) : TransferMoved rested s t := by
  cases op with
  | emit e =>
    cases h
    exact transferMoved_emit hfit.1 hfit.2 rfl rfl rfl
  | start =>
    cases h
    refine ⟨fun _ => hfit.1, fun hp hp' => absurd (hp.symm.trans hp') Bool.false_ne_true,
      fun hr => .inr ⟨?_, fun _ => rfl⟩⟩
    exact phaseEdge_startPending (hfit.2 hr)
  | txBuf k =>
    obtain ⟨b, rfl⟩ := txBufOp_go h
    exact transferMoved_emit (e := .tx b) hfit.1 (fun _ => rfl) rfl rfl rfl
  | rxBuf k =>
    obtain rfl := rxBufOp_go h
    exact transferMoved_emit (e := .rx (rxByte s)) hfit.1 (fun _ => rfl) rfl rfl rfl
  | wait f => cases hop
  | polling f => cases hop
  | setPhase p =>
    cases h
    exact ⟨fun h => absurd rfl h, fun hp hp' => absurd (hp.symm.trans hp') Bool.false_ne_true,
      fun _ => .inr ⟨hfit.1, fun hs => absurd hs hfit.2⟩⟩
  | setPos b => cases hfit
  | finish rc => cases h
  | _ =>
    cases h
    exact transferMoved_of_same rfl rfl rfl

/-- Only `finish` ends a command without a wait, and it leaves PHASE, POS and TRACE. -/
theorem doOp_ended_finish {op : CtrlOp} {s t : State} (hop : op.waits = false) (h : doOp op s = .ended t) :
    ∃ rc, t = finish rc s := by
  cases op with
  | txBuf k => simp only [doOp, txBufOp] at h; split at h <;> cases h
  | rxBuf k => simp only [doOp, rxBufOp] at h; split at h <;> cases h
  | wait f => cases hop
  | polling f => cases hop
  | finish rc => cases h; exact ⟨rc, rfl⟩
  | _ => cases h

theorem CtrlMove.transferMoved {op : CtrlOp} {rest : List CtrlOp} {s t : State} {i : Nat} (h : CtrlMove rest s op t)
    (hfit : op.Fits rested len (s.opPoint i)) : TransferMoved rested s t := by
  cases h with
  | loads f => exact transferMoved_of_same rfl rfl rfl
  | expires f htb =>
    exact ⟨fun h => absurd rfl h, fun hp hp' => absurd (hp.symm.trans hp') Bool.false_ne_true,
      fun _ => .inr ⟨.expired _ hfit.2, nofun⟩⟩
  | succeeds f n htb hans => exact transferMoved_emit (e := .poll f (pollAnswer s)) hfit.1 (fun _ => rfl) rfl rfl rfl
  | retries f n htb hans => exact transferMoved_emit (e := .poll f (pollAnswer s)) hfit.1 (fun _ => rfl) rfl rfl rfl
  | acts op u hop hdo =>
    obtain ⟨hbusy, hpos, hphase⟩ := doOp_go_transferMoved hop hdo hfit
    exact ⟨hbusy, hpos, hphase⟩
  | ends op u hop hdo =>
    obtain ⟨rc, rfl⟩ := doOp_ended_finish hop hdo
    exact transferMoved_of_same rfl rfl rfl

/-! What a fitting operation leaves to do fits. -/

/-- The next operation meets what `CtrlOp.next` says. -/
theorem doOp_go_next {op : CtrlOp} {s t : State} {p : SeqPos} (hop : op.waits = false) (h : doOp op s = .go t)
    (hp : s.seq = some p) : ∃ i, t.seq = some { p with idx := i } ∧ op.next (s.opPoint p.idx) = t.opPoint i := by
  cases op with
  | txBuf k =>
    obtain ⟨b, rfl⟩ := txBufOp_go h
    exact ⟨p.idx + 1, by simp [hp], rfl⟩
  | rxBuf k =>
    obtain rfl := rxBufOp_go h
    exact ⟨p.idx + 1, by simp [hp], rfl⟩
  | wait f => cases hop
  | polling f => cases hop
  | finish rc => cases h
  | _ =>
    cases h
    exact ⟨p.idx, hp, rfl⟩

/-- A command of word `w`, if one is in progress, has fitting operations left and an IDX of at most `len`. -/
def OnCourse (rested : Prop) (len : Nat) (w : Word) (s : State) : Prop :=
  ∀ p, s.seq = some p → p.word = w ∧ p.idx ≤ len ∧ ∃ d, Leads rested len p.todo (s.opPoint p.idx) d

variable {w : Word}

theorem onCourse_of_noCommand {s : State} (h : s.seq = none) : OnCourse rested len w s := fun p hp => by
  rw [h] at hp
  cases hp

theorem onCourse_of_seq {s : State} {p : SeqPos} (h : s.seq = some p) (hword : p.word = w) (hidx : p.idx ≤ len)
    {d : OpPoint} (hfit : Leads rested len p.todo (s.opPoint p.idx) d) : OnCourse rested len w s := fun q hq => by
  obtain rfl := Option.some.inj (h.symm.trans hq)
  exact ⟨hword, hidx, d, hfit⟩

theorem CtrlMove.onCourse {op : CtrlOp} {rest : List CtrlOp} {s t : State} {p : SeqPos} (h : CtrlMove rest s op t)
    (hp : s.seq = some p) (hword : p.word = w) (hidx : p.idx ≤ len) {d : OpPoint}
    (hfit : Leads rested len (op :: rest) (s.opPoint p.idx) d) : OnCourse rested len w t := by
  obtain ⟨hop, hrest⟩ := hfit
  have htodo (l : List CtrlOp) {u : State} (hu : u.seq = some p)
      (hl : Leads rested len l (u.opPoint p.idx) d) : OnCourse rested len w (setTodo l u) :=
    onCourse_of_seq (p := { p with todo := l }) (by simp [hu]) hword hidx hl
  cases h with
  | loads f => exact htodo _ (by exact hp) ⟨hop, hrest⟩
  | expires f htb => exact onCourse_of_noCommand rfl
  | succeeds f n htb hans => exact htodo _ (by exact hp) hrest
  | retries f n htb hans => exact htodo _ (by exact hp) ⟨hop, hrest⟩
  | acts op u hwaits hdo =>
    obtain ⟨i, hu, hnext⟩ := doOp_go_next hwaits hdo hp
    have hi : i ≤ len := by
      have hle := hop.idx_le (len := len) hidx
      rwa [hnext] at hle
    exact onCourse_of_seq (p := { p with idx := i, todo := rest }) (by simp [hu]) hword hi (hnext ▸ hrest)
  | ends op u hwaits hdo =>
    obtain ⟨rc, rfl⟩ := doOp_ended_finish hwaits hdo
    exact onCourse_of_noCommand rfl

/-- A step with no command in progress leaves none (R55). -/
theorem step_leaves_noCommand {s t : State} (hseq : s.seq = none) (h : step s = .next t) : t.seq = none := by
  obtain ⟨rest, hacc⟩ := step_of_noCommand hseq h
  cases hacc with
  | command w t hw =>
    cases hd : decode w with
    | command i =>
      rw [cmdWrite, hd] at hw
      obtain ⟨-, -, -, -, hnone, -⟩ := frameByCommand i _ t hw
      exact hnone
    | reservedOpcode op =>
      rw [cmdWrite_reserved hd] at hw
      cases hw
      rfl
  | _ => exact hseq

theorem OnCourse.step {s t : State} (h : OnCourse rested len w s) (hst : step s = .next t) :
    OnCourse rested len w t := by
  cases hseq : s.seq with
  | none => exact onCourse_of_noCommand (step_leaves_noCommand hseq hst)
  | some p =>
    obtain ⟨hword, hidx, d, hfit⟩ := h p hseq
    rw [step_of_seq hseq, ctrlStep] at hst
    cases htodo : p.todo with
    | nil =>
      rw [htodo] at hst
      cases hst
      exact onCourse_of_noCommand rfl
    | cons op rest =>
      rw [htodo] at hst hfit
      exact (ctrlOpStep_move hst).onCourse hseq hword hidx hfit

theorem OnCourse.run {n : Nat} {u v : State} (h : OnCourse rested len w u)
    (hrun : Host.Core.run Sys2Proof.core n u = .next v) : OnCourse rested len w v := by
  induction n generalizing u with
  | zero =>
    cases hrun
    exact h
  | succ n ih =>
    rw [core_run_succ] at hrun
    cases hstep : Machine.step u with
    | next t => rw [hstep] at hrun; exact ih (h.step hstep) hrun
    | fault r => rw [hstep] at hrun; cases hrun
    | refused r => rw [hstep] at hrun; cases hrun

/-- A controller step on course. -/
theorem OnCourse.transferMoved {s t : State} {p : SeqPos} (h : OnCourse rested len w s) (hp : s.seq = some p)
    (hst : Machine.step s = .next t) : TransferMoved rested s t := by
  obtain ⟨-, -, d, hfit⟩ := h p hp
  rw [step_of_seq hp, ctrlStep] at hst
  cases htodo : p.todo with
  | nil =>
    rw [htodo] at hst
    cases hst
    exact transferMoved_of_same rfl rfl rfl
  | cons op rest =>
    rw [htodo] at hst hfit
    exact (ctrlOpStep_move hst).transferMoved hfit.1

/-! The operations of WRITE and READ fit. -/

theorem waiting_transferring : Phase.Waiting .transferring := .inr (.inr (.inl rfl))

/-- PHASE after the point at which a transfer asserts STOP or does not (R80, R86). -/
def stopPhase (stops : Bool) : Phase := if stops then .stopping else .transferring

theorem waiting_stopPhase (stops : Bool) : (stopPhase stops).Waiting := by
  cases stops
  · exact waiting_transferring
  · exact .inr (.inr (.inr rfl))

/-- The opening, from a phase in which a transfer may start (R76, R78, R79). -/
theorem leads_transferHead (addr : BitVec 7) (d : Dir) {c : OpPoint}
    (hc : rested → c.phase = .idle ∨ c.phase = .timedOut) :
    Leads rested len (transferHead addr d) c ⟨.addressAcked, true, c.idx⟩ :=
  ⟨trivial, trivial, ⟨rfl, hc⟩, ⟨rfl, .inl rfl⟩, ⟨rfl, fun _ => rfl⟩, ⟨.addressSent, nofun⟩,
    ⟨rfl, .inr (.inl rfl)⟩, ⟨.addressed, nofun⟩, rfl⟩

theorem leads_transferring (i : Nat) :
    Leads rested len [.emit .clrAddr, .setPhase .transferring] ⟨.addressAcked, true, i⟩ ⟨.transferring, true, i⟩ :=
  ⟨⟨rfl, fun _ => rfl⟩, ⟨.transfer, nofun⟩, rfl⟩

/-- A loop of waits and data bytes. -/
theorem leads_loop {loop : Nat → Nat → List CtrlOp} {op : Nat → CtrlOp} {f : StatusFlag}
    (hzero : ∀ k, loop k 0 = []) (hsucc : ∀ k n, loop k (n + 1) = .wait f :: op k :: loop (k + 1) n)
    (hop : ∀ k, op k = .txBuf k ∨ op k = .rxBuf k) (k n : Nat) {i : Nat} (hi : i + n ≤ len) :
    Leads rested len (loop k n) ⟨.transferring, true, i⟩ ⟨.transferring, true, i + n⟩ := by
  induction n generalizing k i with
  | zero =>
    rw [hzero]
    exact rfl
  | succ n ih =>
    have hrest := ih (k + 1) (i := i + 1) (by omega)
    have hlt : i < len := by omega
    rw [Nat.add_right_comm] at hrest
    rw [hsucc]
    rcases hop k with hk | hk <;> rw [hk] <;> exact ⟨⟨rfl, waiting_transferring⟩, ⟨rfl, hlt⟩, hrest⟩

theorem leads_stopPoint (stops : Bool) (i : Nat) :
    Leads rested len (stopPoint stops) ⟨.transferring, true, i⟩ ⟨stopPhase stops, true, i⟩ := by
  cases stops
  · exact rfl
  · exact ⟨⟨rfl, fun _ => rfl⟩, ⟨.stop, nofun⟩, rfl⟩

theorem leads_endTransfer (stops : Bool) (i : Nat) :
    Leads rested len (endTransfer stops) ⟨stopPhase stops, true, i⟩ ⟨.idle, false, i⟩ := by
  cases stops
  · exact ⟨⟨.chain, nofun⟩, trivial, ⟨.held, nofun⟩, trivial, trivial, rfl⟩
  · exact ⟨trivial, ⟨.stopped, nofun⟩, trivial, trivial, rfl⟩

/-- WRITE (R80). -/
theorem leads_writeSequence (addr : BitVec 7) (base : Nat) (pend : Bool) {c : OpPoint} (hidx : c.idx = 0)
    (hc : rested → c.phase = .idle ∨ c.phase = .timedOut) :
    Leads rested len (writeSequence addr base len pend) c ⟨.idle, false, len⟩ := by
  have hopened := (leads_transferHead (len := len) addr .write hc).append (leads_transferring c.idx)
  have hsent := hopened.append (leads_loop (loop := txLoop) (fun _ => rfl) (fun _ _ => rfl) (fun _ => .inl rfl) base len
    (by omega))
  rw [hidx, Nat.zero_add] at hsent
  have hdrained : Leads rested len [.wait .btf] ⟨.transferring, true, len⟩ ⟨.transferring, true, len⟩ :=
    ⟨⟨rfl, waiting_transferring⟩, rfl⟩
  exact ((hsent.append hdrained).append (leads_stopPoint (!pend) len)).append (leads_endTransfer (!pend) len)

/-- `read1()` (R88). -/
theorem leads_read1 (base : Nat) (stops : Bool) :
    Leads rested 1 (read1 base stops) ⟨.addressAcked, true, 0⟩ ⟨stopPhase stops, true, 1⟩ := by
  have hcontrols : Leads rested 1 [.emit .ackOff] ⟨.addressAcked, true, 0⟩ ⟨.addressAcked, true, 0⟩ :=
    ⟨⟨rfl, fun _ => rfl⟩, rfl⟩
  have hread : Leads rested 1 [.wait .rxne, .rxBuf base] ⟨stopPhase stops, true, 0⟩ ⟨stopPhase stops, true, 1⟩ :=
    ⟨⟨rfl, waiting_stopPhase stops⟩, ⟨rfl, Nat.one_pos⟩, rfl⟩
  exact ((hcontrols.append (leads_transferring 0)).append (leads_stopPoint stops 0)).append hread

/-- `read2()` (R89). -/
theorem leads_read2 (base : Nat) (stops : Bool) :
    Leads rested 2 (read2 base stops) ⟨.addressAcked, true, 0⟩ ⟨stopPhase stops, true, 2⟩ := by
  have hcontrols : Leads rested 2 [.emit .posOnAckOff] ⟨.addressAcked, true, 0⟩ ⟨.addressAcked, true, 0⟩ :=
    ⟨⟨rfl, fun _ => rfl⟩, rfl⟩
  have hready : Leads rested 2 [.wait .btf] ⟨.transferring, true, 0⟩ ⟨.transferring, true, 0⟩ :=
    ⟨⟨rfl, waiting_transferring⟩, rfl⟩
  have hread : Leads rested 2 [.rxBuf base, .rxBuf (base + 1), .emit .posOff] ⟨stopPhase stops, true, 0⟩
      ⟨stopPhase stops, true, 2⟩ := ⟨⟨rfl, Nat.two_pos⟩, ⟨rfl, Nat.one_lt_two⟩, ⟨rfl, fun _ => rfl⟩, rfl⟩
  exact (((hcontrols.append (leads_transferring 0)).append hready).append (leads_stopPoint stops 0)).append hread

/-- `readN()` (R90). -/
theorem leads_readN (base n : Nat) (stops : Bool) :
    Leads rested (n + 3) (readN base (n + 3) stops) ⟨.addressAcked, true, 0⟩ ⟨stopPhase stops, true, n + 3⟩ := by
  have hcontrols : Leads rested (n + 3) [.emit .ackOn] ⟨.addressAcked, true, 0⟩ ⟨.addressAcked, true, 0⟩ :=
    ⟨⟨rfl, fun _ => rfl⟩, rfl⟩
  have hloop : Leads rested (n + 3) (rxLoop base n) ⟨.transferring, true, 0⟩ ⟨.transferring, true, n⟩ := by
    simpa using leads_loop (loop := rxLoop) (len := n + 3) (i := 0) (fun _ => rfl) (fun _ _ => rfl)
      (fun _ => .inr rfl) base n (by omega)
  have hfirst : Leads rested (n + 3) [.wait .btf, .emit .ackOff, .rxBuf (base + (n + 3) - 3)]
      ⟨.transferring, true, n⟩ ⟨.transferring, true, n + 1⟩ :=
    ⟨⟨rfl, waiting_transferring⟩, ⟨rfl, fun _ => rfl⟩, ⟨rfl, Nat.lt_add_of_pos_right (Nat.succ_pos 2)⟩, rfl⟩
  have hlast : Leads rested (n + 3) [.rxBuf (base + (n + 3) - 2), .wait .rxne, .rxBuf (base + (n + 3) - 1)]
      ⟨stopPhase stops, true, n + 1⟩ ⟨stopPhase stops, true, n + 3⟩ :=
    ⟨⟨rfl, Nat.lt_succ_of_lt (Nat.lt_succ_self _)⟩, ⟨rfl, waiting_stopPhase stops⟩, ⟨rfl, Nat.lt_succ_self _⟩, rfl⟩
  exact ((((hcontrols.append (leads_transferring 0)).append hloop).append hfirst).append
    (leads_stopPoint stops (n + 1))).append hlast

theorem leads_readProcedure (base : Nat) (stops : Bool) (hlen : 0 < len) :
    Leads rested len (readProcedure base len stops) ⟨.addressAcked, true, 0⟩ ⟨stopPhase stops, true, len⟩ := by
  match len, hlen with
  | 1, _ => exact leads_read1 base stops
  | 2, _ => exact leads_read2 base stops
  | n + 3, _ => exact leads_readN base n stops

/-- READ (R86). -/
theorem leads_readSequence (addr : BitVec 7) (base : Nat) (stops : Bool) (hlen : 0 < len) {c : OpPoint}
    (hidx : c.idx = 0) (hc : rested → c.phase = .idle ∨ c.phase = .timedOut) :
    Leads rested len (readSequence addr base len stops) c ⟨.idle, false, len⟩ := by
  have hopened := leads_transferHead (len := len) addr .read hc
  rw [hidx] at hopened
  exact (hopened.append (leads_readProcedure base stops hlen)).append (leads_endTransfer stops len)

/-- The LEN of a WRITE or READ. -/
def lenOf : Instr → Nat
  | .write _ len _ _ => len
  | .read _ len _ _ => len
  | _ => 0

/-- A command whose checks fail only finishes (R105). -/
theorem leads_rejected (c : OpPoint) : Leads rested len [.finish .parameterError] c c := ⟨trivial, rfl⟩

theorem leads_writeOps {addr : BitVec 7} {pend bufv : Bool} {s : State} {ops : List CtrlOp} {c : OpPoint}
    (hops : writeOps addr len pend bufv s = .ok ops) (hidx : c.idx = 0)
    (hc : rested → c.phase = .idle ∨ c.phase = .timedOut) : ∃ d, Leads rested len ops c d := by
  unfold writeOps at hops
  split at hops
  · split at hops
    · cases hops
      exact ⟨_, leads_writeSequence addr s.base pend hidx hc⟩
    · cases hops
  · cases hops
    exact ⟨c, leads_rejected c⟩

theorem leads_readOps (addr : BitVec 7) (pend bufv : Bool) (s : State) {c : OpPoint} (hidx : c.idx = 0)
    (hc : rested → c.phase = .idle ∨ c.phase = .timedOut) :
    ∃ d, Leads rested len (readOps addr len pend bufv s) c d := by
  unfold readOps
  split
  · next hchecks =>
    have hlen := ((transferChecksPass_iff len bufv s).1 hchecks).2.1
    exact ⟨_, leads_readSequence addr s.base (readStops s.params pend) hlen hidx hc⟩
  · exact ⟨c, leads_rejected c⟩

/-- A WRITE or READ that has just started is on course. -/
theorem onCourse_startCommand {i : Instr} {s u : State} (hi : decode w = .command i) (htransfer : isTransfer i = true)
    (hs : rested → s.phase = .idle ∨ s.phase = .timedOut) (hu : startCommand w s = .ok u) :
    OnCourse rested (lenOf i) w u := by
  obtain ⟨ops, hops, rfl⟩ := startCommand_ok hu
  rw [wordOps, hi] at hops
  have hleads : ∃ d, Leads rested (lenOf i) ops (s.opPoint 0) d := by
    cases i with
    | write addr len pend bufv => exact leads_writeOps hops rfl hs
    | read addr len pend bufv =>
      cases hops
      exact leads_readOps addr pend bufv s rfl hs
    | _ => cases htransfer
  obtain ⟨d, hd⟩ := hleads
  exact onCourse_of_seq rfl rfl (Nat.zero_le _) hd

end

/-- Settles O14: a transfer that passed its checks is on course at every step. -/
theorem transferControllerSteps : Obligations.TransferControllerSteps := by
  intro w addr len pend s u v n p hw _ hu hrun hp
  have hcourse : OnCourse False len w v := by
    rcases hw with hw | hw <;> exact (onCourse_startCommand hw rfl nofun hu).run hrun
  obtain ⟨hword, hidx, -⟩ := hcourse p hp
  refine ⟨hword, hidx, fun v' hv' => ?_⟩
  obtain ⟨hbusy, hpos, -⟩ := hcourse.transferMoved hp hv'
  exact ⟨hbusy, hpos⟩

/-- Settles O15: between host accesses PHASE is one from which a transfer may start, and from there each operation
moves it along R33. -/
theorem phaseFollowsItsStateMachine : Obligations.PhaseFollowsItsStateMachine := by
  intro w i s u v v' n p hinv hw htransfer hu hrun hp hstep
  have hcourse := (onCourse_startCommand (rested := True) hw htransfer (fun _ => hinv.phase) hu).run hrun
  exact (hcourse.transferMoved hp hstep).phase trivial

end Sys2Proof.Machine
end
